-- ==== Sys2Proof/Word.lean ====
section
/-! DEFINITION. The byte, the only word PEHE's memory and streams carry (R10), and the type of a timeout value (R8). -/

namespace Sys2Proof

/-- A byte, values 0x00 to 0xFF (R10). -/
abbrev Byte := BitVec 8

/-- A timeout value (R8, D30). The spec leaves the type open and PEHE only copies such values; the model takes the naturals
(DESIGN CHOICE, log 5). -/
abbrev TimeoutVal := Nat

end Sys2Proof
end

