-- ==== Sys2Proof/Config.lean ====
section
/-! DEFINITION. The constants the source fixes (R6, R7), the parameters it leaves open (R8), and the free values a model draws (R43, R45, R216). -/

namespace Sys2Proof

namespace Config

/-- Start of a frame (R6). -/
def stx : Byte := 0x02
/-- End of a payload (R6). -/
def etx : Byte := 0x03
/-- Closes a conversation (R6). -/
def eot : Byte := 0x04
/-- Opens a conversation (R6). -/
def enq : Byte := 0x05
/-- Acknowledge (R6). -/
def ack : Byte := 0x06
/-- The terminal's refusal (R6). -/
def nak : Byte := 0x15

/-- Bytes of an Ask payload (R6). -/
abbrev askPayloadLen : Nat := 34
/-- Bytes of a full Response payload (R6). -/
abbrev respFullLen : Nat := 80
/-- Bytes of a limited Response payload (R6). -/
abbrev respLimitedLen : Nat := 25
/-- Bytes of the report of a full Response (R6). -/
abbrev reportLen : Nat := 55
/-- Bytes of a private field (R6). -/
abbrev privateLen : Nat := 10
/-- Digits of an amount field (R6). -/
abbrev amountDigits : Nat := 8
/-- The least Ask amount, in cents (R6). -/
abbrev amountMinCents : Nat := 1
/-- The greatest Ask amount, in cents (R6). -/
abbrev amountMaxCents : Nat := 9999999
/-- The greatest Response amount, in cents (R37, R134). -/
abbrev respAmountMax : Nat := 99999999
/-- Bytes of an Ask frame (R7). -/
abbrev askFrameLen : Nat := 37
/-- Bytes of a full Response frame (R7). -/
abbrev respFullFrameLen : Nat := 83
/-- Bytes of a limited Response frame (R7). -/
abbrev respLimitedFrameLen : Nat := 28
/-- The byte "blank" means (R121 item 4, D8). -/
def blank : Byte := 0x20

/-- A free value: what a read returns where the spec says "any value the model draws" (R43, R45, R216). `drawn k r i` is the value drawn in the model's
draw number `k` for element `i` of the register numbered `r`. It has no body, so no proof can know one of its values (log 2). -/
opaque drawn : Nat → Nat → Nat → Nat

end Config

/-- The parameters the source leaves open (R8). A state holds them and no step changes them (log 4). -/
structure Params where
  /-- ANSWER_FLAG_FULL: the answer_flag byte that asks for an 80-byte payload. -/
  answerFlagFull : Byte
  /-- ANSWER_FLAG_LIMITED: the answer_flag byte that asks for a 25-byte payload. -/
  answerFlagLimited : Byte
  /-- BUF_CAP: the capacity of BUF. -/
  bufCap : Nat
  /-- T_TIMEOUT_INIT: the transport's timeout at launch. -/
  timeoutInit : TimeoutVal
deriving DecidableEq, Repr

/-- The labelled test instantiation of spec file 95 ("Conventions"): FULL = '1', LIMITED = '0', BUF_CAP = 256. T0 is the symbol for T_TIMEOUT_INIT there and is 0
here. DESIGN CHOICE (log 4): the spec leaves each of them open. -/
def Params.launch : Params :=
  { answerFlagFull := 0x31, answerFlagLimited := 0x30, bufCap := 256, timeoutInit := 0 }

end Sys2Proof
end

