-- ==== Sys2Proof/Syntax.lean ====
section
/-! DEFINITION. The instructions: one constructor per row of spec/opcode_table.json. The first eight are the CMD8 command words (R85, R86), the last six the WIRE8 control bytes (R89). None has an operand
field (R85): every operand is implicit (R88). -/

namespace Sys2Proof

inductive Instr where
  /-- LRC, command 0x01 (R112). -/
  | lrc
  /-- LRC_CHECK, command 0x02 (R114). -/
  | lrcCheck
  /-- ENCODE_ASK, command 0x03 (R124). -/
  | encodeAsk
  /-- DECODE_ASK, command 0x04 (R127). -/
  | decodeAsk
  /-- DECODE_RESPONSE, command 0x05 (R131). -/
  | decodeResponse
  /-- ENCODE_RESPONSE, command 0x06 (R135). -/
  | encodeResponse
  /-- SEND, command 0x07 (R150). -/
  | send
  /-- RECEIVE, command 0x08 (R170). -/
  | receive
  /-- ENQ, wire byte 0x05 (R89). -/
  | enq
  /-- ACK, wire byte 0x06 (R89). -/
  | ack
  /-- NAK, wire byte 0x15 (R89). -/
  | nak
  /-- EOT, wire byte 0x04 (R89). -/
  | eot
  /-- STX, wire byte 0x02 (R89). -/
  | stx
  /-- ETX, wire byte 0x03 (R89). -/
  | etx
deriving DecidableEq, Repr

end Sys2Proof
end

