-- ==== Sys2Proof/Machine/Access.lean ====
section
/-! DEFINITION. The register map (R21), the accesses a CALLER makes (R22), the statements of a CALLER program (R98, R99), and the turns agents take (R5). Types and tables only; what they do stands in Machine/Caller.lean. -/

namespace Sys2Proof.Machine

/-- The registers of the map of R21, by name. -/
inductive Reg where
  | cmd | ctrl | status | err | errInfo0 | errInfo1 | lrcValue | timeoutArg | bufLen | buf
  | askPos | askAmtMant | askAmtScale | askAnswerFlag | askPaymentMode | askTransactionType
  | askCurrency | askPrivate | askDelay | askAuth
  | respPos | respResult | respAmount | respPaymentMode | respReportLen | respReport
  | respCurrency | respPrivate
deriving DecidableEq, Repr

/-- What kind of thing a register is (R21, column "width"). -/
inductive Shape where
  /-- a numeric register of so many bits -/
  | numeric (width : Nat)
  /-- a register that holds a TimeoutVal -/
  | timeout
  /-- a byte-array register of so many bytes -/
  | array (length : Nat)
  /-- BUF, a byte array of BUF_CAP bytes -/
  | buffer
deriving DecidableEq, Repr

/-- The access rights of R21. -/
inductive Rights where
  | readOnly | writeOnly | readWrite
deriving DecidableEq, Repr

/-- The register numbers of R21. -/
def Reg.number : Reg → Nat
  | .cmd => 0x00 | .ctrl => 0x01 | .status => 0x02 | .err => 0x03 | .errInfo0 => 0x04
  | .errInfo1 => 0x05 | .lrcValue => 0x06 | .timeoutArg => 0x07 | .bufLen => 0x08 | .buf => 0x09
  | .askPos => 0x10 | .askAmtMant => 0x11 | .askAmtScale => 0x12 | .askAnswerFlag => 0x13
  | .askPaymentMode => 0x14 | .askTransactionType => 0x15 | .askCurrency => 0x16
  | .askPrivate => 0x17 | .askDelay => 0x18 | .askAuth => 0x19
  | .respPos => 0x20 | .respResult => 0x21 | .respAmount => 0x22 | .respPaymentMode => 0x23
  | .respReportLen => 0x24 | .respReport => 0x25 | .respCurrency => 0x26 | .respPrivate => 0x27

/-- Every register of R21, in the order of the map. -/
def Reg.all : List Reg :=
  [.cmd, .ctrl, .status, .err, .errInfo0, .errInfo1, .lrcValue, .timeoutArg, .bufLen, .buf,
   .askPos, .askAmtMant, .askAmtScale, .askAnswerFlag, .askPaymentMode, .askTransactionType,
   .askCurrency, .askPrivate, .askDelay, .askAuth] ++
  [.respPos, .respResult, .respAmount, .respPaymentMode, .respReportLen, .respReport,
   .respCurrency, .respPrivate]

/-- The register with a number, if R21 lists one; the other numbers are unmapped (R23). -/
def Reg.ofNumber (n : Nat) : Option Reg := Reg.all.find? (fun r => r.number == n)

/-- The widths of R21. -/
def Reg.shape : Reg → Shape
  | .cmd => .numeric 8 | .ctrl => .numeric 8 | .status => .numeric 8 | .err => .numeric 8
  | .errInfo0 => .numeric 8 | .errInfo1 => .numeric 8 | .lrcValue => .numeric 8
  | .timeoutArg => .timeout | .bufLen => .numeric 16 | .buf => .buffer
  | .askPos => .array 2 | .askAmtMant => .numeric 32 | .askAmtScale => .numeric 4
  | .askAnswerFlag => .numeric 8 | .askPaymentMode => .numeric 8
  | .askTransactionType => .numeric 8 | .askCurrency => .array 3 | .askPrivate => .array 10
  | .askDelay => .array 4 | .askAuth => .array 4
  | .respPos => .array 2 | .respResult => .numeric 4 | .respAmount => .numeric 27
  | .respPaymentMode => .numeric 8 | .respReportLen => .numeric 6 | .respReport => .array 55
  | .respCurrency => .array 3 | .respPrivate => .array 10

/-- The access rights of R21. -/
def Reg.rights : Reg → Rights
  | .cmd => .writeOnly
  | .status => .readOnly | .err => .readOnly | .errInfo0 => .readOnly | .errInfo1 => .readOnly
  | .lrcValue => .readOnly
  | .ctrl => .readWrite | .timeoutArg => .readWrite | .bufLen => .readWrite | .buf => .readWrite
  | .askPos => .readWrite | .askAmtMant => .readWrite | .askAmtScale => .readWrite
  | .askAnswerFlag => .readWrite | .askPaymentMode => .readWrite
  | .askTransactionType => .readWrite | .askCurrency => .readWrite | .askPrivate => .readWrite
  | .askDelay => .readWrite | .askAuth => .readWrite
  | .respPos => .readWrite | .respResult => .readWrite | .respAmount => .readWrite
  | .respPaymentMode => .readWrite | .respReportLen => .readWrite | .respReport => .readWrite
  | .respCurrency => .readWrite | .respPrivate => .readWrite

/-- The register is reached one element at a time, by number and index (R22). -/
def Reg.isArray (r : Reg) : Bool :=
  match r.shape with
  | .array _ => true
  | .buffer => true
  | .numeric _ => false
  | .timeout => false

/-- One CALLER access, as PEHE sees it (R22, R98): `W r = v`, `W r[i] = v`, `R r`, `R r[i]`. -/
inductive Access where
  | write (reg : Nat) (v : Nat)
  | writeElem (reg : Nat) (idx : Nat) (v : Nat)
  | read (reg : Nat)
  | readElem (reg : Nat) (idx : Nat)
deriving DecidableEq, Repr

/-- The named bit fields of the control and status registers (R24, R25, R26, R28). -/
inductive Field where
  | opc | rsv
  | lenient
  | busy | respValid | frameAvail | check | outcome | overrun
  | code | eotMissing
deriving DecidableEq, Repr

/-- The register a field belongs to (R24, R25, R26, R28). -/
def Field.reg : Field → Reg
  | .opc => .cmd | .rsv => .cmd
  | .lenient => .ctrl
  | .busy => .status | .respValid => .status | .frameAvail => .status | .check => .status
  | .outcome => .status | .overrun => .status
  | .code => .err | .eotMissing => .err

/-- The lowest bit of a field and its width in bits (R24, R25, R26, R28). -/
def Field.bits : Field → Nat × Nat
  | .opc => (0, 4) | .rsv => (4, 4)
  | .lenient => (0, 1)
  | .busy => (0, 1) | .respValid => (1, 1) | .frameAvail => (2, 1) | .check => (3, 1)
  | .outcome => (4, 3) | .overrun => (7, 1)
  | .code => (0, 4) | .eotMissing => (4, 1)

/-- The part of a register's value a field names; without a field, the whole value (R98). -/
def Field.select (f : Option Field) (v : Nat) : Nat :=
  match f with
  | none => v
  | some f => v / 2 ^ f.bits.1 % 2 ^ f.bits.2

/-- One statement of a CALLER program, pseudo-instructions expanded (R98). Labels are numbers. -/
inductive Stmt where
  /-- `WR`, `RD` or `CMD`: one access. -/
  | op (a : Access)
  /-- `<label>:` -/
  | label (l : Nat)
  /-- `JMP <label>` -/
  | jmp (l : Nat)
  /-- `JEQ <reg>.<field>, <value>, <label>` -/
  | jeq (reg : Nat) (field : Option Field) (value : Nat) (l : Nat)
  /-- `JNE <reg>.<field>, <value>, <label>` -/
  | jne (reg : Nat) (field : Option Field) (value : Nat) (l : Nat)
  /-- `HALT` -/
  | halt
deriving DecidableEq, Repr

/-- The pseudo-instructions of R99. -/
inductive Pseudo where
  /-- `WR <arrayreg>, "s"` -/
  | writeString (reg : Nat) (s : List Byte)
  /-- `LOADBUF "s"` -/
  | loadBuf (s : List Byte)
  /-- `SETASK pos, mant, scale, flag, mode, type, cur, priv, delay, auth` -/
  | setAsk (pos : List Byte) (mant scale flag mode type : Nat) (cur priv delay auth : List Byte)
  /-- `WAIT` -/
  | wait
  /-- `RUN <mnemonic>` -/
  | run (i : Instr)
deriving DecidableEq, Repr

/-- One line of a CALLER program's text: a statement or a pseudo-instruction (R98). -/
inductive Line where
  | stmt (s : Stmt)
  | pseudo (p : Pseudo)
deriving DecidableEq, Repr

/-- Who takes the next step (R5, R211, R230). -/
inductive Turn where
  /-- the ENGINE; in a read-wait state with RX_Q empty, the TIMEOUT agent (R70, R71: never both) -/
  | engine
  /-- the CALLER executes the next statement of its program (R98) -/
  | caller
  /-- a CALLER context makes this access (R22, R221) -/
  | access (a : Access)
  /-- the TERMINAL appends a byte to RX_Q (R69) -/
  | terminal (b : Byte)
  /-- the reset input is asserted (R230) -/
  | reset
deriving DecidableEq, Repr

end Sys2Proof.Machine
end

