-- ==== Sys2Proof/WellFormed.lean ====
section
/-! DEFINITION. Well-formedness: of an instruction (nothing to check: no operands, R85), of a CALLER access and statement (the spellings R22 and R98 have), and of the parameters (R8). -/

namespace Sys2Proof

/-- Every instruction is well formed: an instruction has no operand field (R85). -/
def Instr.wellFormed : Instr → Bool := fun _ => true

/-- The instruction is a command, one the pseudo-instruction RUN and the operation CMD may name (R98, R99); a wire control byte is not. -/
def Instr.isCommand : Instr → Bool
  | .lrc | .lrcCheck | .encodeAsk | .decodeAsk | .decodeResponse | .encodeResponse | .send
  | .receive => true
  | .enq | .ack | .nak | .eot | .stx | .etx => false

/-- The constraints R8 puts on the open parameters: the two answer flags differ, and BUF_CAP is at least 83. -/
def Params.wellFormed (p : Params) : Bool :=
  p.answerFlagFull != p.answerFlagLimited && decide (Config.respFullFrameLen ≤ p.bufCap)

namespace Machine

/-- The access is one R22 has: a whole register is not a byte array, and an element belongs to a byte array. An unmapped register number may be named either way (R23). -/
def Access.wellFormed : Access → Bool
  | .write reg _ | .read reg => (Reg.ofNumber reg).all (fun r => !r.isArray)
  | .writeElem reg _ _ | .readElem reg _ => (Reg.ofNumber reg).all Reg.isArray

/-- A condition `<reg>.<field>` names a whole register and a field of that register (R98). -/
def fieldOfReg (reg : Nat) (f : Option Field) : Bool :=
  (Access.read reg).wellFormed && f.all (fun f => Reg.ofNumber reg == some f.reg)

/-- The labels a program declares. -/
def labelsOf (prog : List Stmt) : List Nat :=
  prog.filterMap fun s => match s with
    | .label l => some l
    | .op _ | .jmp _ | .jeq _ _ _ _ | .jne _ _ _ _ | .halt => none

/-- A statement is well formed in a program: its access is one R22 has, its field belongs to its register, its label is declared (R98). -/
def Stmt.wellFormed (prog : List Stmt) : Stmt → Bool
  | .op a => a.wellFormed
  | .label _ => true
  | .jmp l => (labelsOf prog).contains l
  | .jeq reg f _ l | .jne reg f _ l => fieldOfReg reg f && (labelsOf prog).contains l
  | .halt => true

/-- A CALLER program is well formed when each of its statements is (R98). -/
def programWellFormed (prog : List Stmt) : Bool := prog.all (Stmt.wellFormed prog)

/-- A pseudo-instruction is well formed: a string goes to a byte-array register, RUN names a command (R99). -/
def Pseudo.wellFormed : Pseudo → Bool
  | .writeString reg _ => (Reg.ofNumber reg).any Reg.isArray
  | .loadBuf _ => true
  | .setAsk _ _ _ _ _ _ _ _ _ _ => true
  | .wait => true
  | .run i => i.isCommand

/-- A turn is well formed when the access it makes is (R22). -/
def Turn.wellFormed : Turn → Bool
  | .access a => a.wellFormed
  | .engine | .caller | .terminal _ | .reset => true

end Machine

end Sys2Proof
end

