-- ==== Sys2Proof/Decode.lean ====
section
/-! DEFINITION. The decoder of the two 8-bit formats (R85 to R87, R89), total on any bytes, and after it the encoder. The words are those of spec/opcode_table.json. -/

namespace Sys2Proof

/-- The two formats of spec/opcode_table.json: a command word written to CMD (R85) and a control byte of the transport's receive stream (R89). The same byte value may stand for one instruction in each. -/
inductive Format where
  | cmd8 | wire8
deriving DecidableEq, Repr

/-- Why a word is no instruction. -/
inductive DecodeError where
  /-- there is no byte to decode -/
  | noByte
  /-- a command word with RSV ≠ 0 (R87) -/
  | reservedBits
  /-- a command word with OPC 0x0 or 0x9 to 0xF (R87) -/
  | noSuchCommand
  /-- a received byte that is none of the six control bytes (R89): plain data -/
  | plainByte
deriving DecidableEq, Repr

/-- The fields of a command word (R85): OPC [3:0] and RSV [7:4]. -/
def opcField (c : Byte) : BitVec 4 := c.extractLsb' 0 4
def rsvField (c : Byte) : BitVec 4 := c.extractLsb' 4 4

/-- The command codes of R86. -/
def commandOf (opc : BitVec 4) : Option Instr :=
  match opc.toNat with
  | 0x1 => some .lrc
  | 0x2 => some .lrcCheck
  | 0x3 => some .encodeAsk
  | 0x4 => some .decodeAsk
  | 0x5 => some .decodeResponse
  | 0x6 => some .encodeResponse
  | 0x7 => some .send
  | 0x8 => some .receive
  | _ => none

/-- The command a CMD byte stands for (R85, R86); RSV must be 0 (R87). -/
def decodeCommand (c : Byte) : Except DecodeError Instr :=
  if rsvField c ≠ 0 then .error .reservedBits
  else match commandOf (opcField c) with
    | some i => .ok i
    | none => .error .noSuchCommand

/-- The control byte a received byte is (R89). -/
def decodeWire (b : Byte) : Except DecodeError Instr :=
  match b.toNat with
  | 0x02 => .ok .stx
  | 0x03 => .ok .etx
  | 0x04 => .ok .eot
  | 0x05 => .ok .enq
  | 0x06 => .ok .ack
  | 0x15 => .ok .nak
  | _ => .error .plainByte

/-- Reads one instruction of a format off the front of a byte list and leaves the rest. Every instruction is one byte long (R85, R97). -/
def decode (f : Format) : List Byte → Except DecodeError (Instr × List Byte)
  | [] => .error .noByte
  | b :: rest =>
    match (match f with | .cmd8 => decodeCommand b | .wire8 => decodeWire b) with
    | .ok i => .ok (i, rest)
    | .error e => .error e

/-- The format of each row of the table. -/
def Instr.format : Instr → Format
  | .lrc | .lrcCheck | .encodeAsk | .decodeAsk | .decodeResponse | .encodeResponse | .send
  | .receive => .cmd8
  | .enq | .ack | .nak | .eot | .stx | .etx => .wire8

/-- The byte of each row of the table (R86, R89). -/
def Instr.byte : Instr → Byte
  | .lrc => 0x01
  | .lrcCheck => 0x02
  | .encodeAsk => 0x03
  | .decodeAsk => 0x04
  | .decodeResponse => 0x05
  | .encodeResponse => 0x06
  | .send => 0x07
  | .receive => 0x08
  | .enq => 0x05
  | .ack => 0x06
  | .nak => 0x15
  | .eot => 0x04
  | .stx => 0x02
  | .etx => 0x03

/-- The words of an instruction: one byte (R85). -/
def encode (i : Instr) : List Byte := [i.byte]

/-- The instruction a table word stands for. A word is read as a command first and as a wire control byte where it is no command, since the table gives one byte value to a command and to a control byte in five cases (0x02 to 0x06) and the word
alone does not tell them apart (log 14). -/
def decodeTableWord (nbits w : Nat) : Option Instr :=
  if nbits = 8 then
    match decode .cmd8 [BitVec.ofNat 8 w] with
    | .ok (i, _) => some i
    | .error _ =>
      match decode .wire8 [BitVec.ofNat 8 w] with
      | .ok (i, _) => some i
      | .error _ => none
  else none

end Sys2Proof
end

