-- ==== Sys2Proof/Machine/Bytes.lean ====
section
/-! DEFINITION. Byte-sequence functions: slices (R11), the XOR fold and checksum (R17, R110, R111), decimal digits (R16), frames (R90, R123). -/

namespace Sys2Proof.Machine

/-- `s[a:b]`, half-open (R11). -/
def slice (s : List Byte) (a b : Nat) : List Byte := (s.drop a).take (b - a)

/-- `s[k]` of a sequence known to be longer than `k` (R11). The 0 beyond the end is never used by a rule. -/
def at_ (s : List Byte) (k : Nat) : Byte := s.getD k 0

/-- `xor_fold` (R17). R17 leaves it undefined on the empty sequence, where no rule applies it (R110, R111, R116). -/
def xorFold : List Byte → Byte
  | [] => 0
  | b :: bs => b ^^^ xorFold bs

/-- `lrc` (R110): none is the error EMPTY_INPUT. -/
def lrc (s : List Byte) : Option Byte := if s = [] then none else some (xorFold s)

/-- The checksum computed over a frame's payload and ETX: `xor_fold(f[1:len(f)-1])` (R111). -/
def lrcComputed (f : List Byte) : Byte := xorFold (slice f 1 (f.length - 1))

/-- The checksum a frame carries: its last byte (R111). -/
def lrcReceived (f : List Byte) : Byte := at_ f (f.length - 1)

/-- `lrc_ok` (R111). -/
def lrcOk (f : List Byte) : Bool :=
  if f.length < 3 then false else lrcComputed f == lrcReceived f

/-- `is_digit` (R16). -/
def isDigit (b : Byte) : Bool := 0x30 ≤ b.toNat && b.toNat ≤ 0x39

/-- `digits_ok` (R16). -/
def digitsOk (s : List Byte) : Bool := s.all isDigit

/-- The number an ASCII digit stands for (R16). R16 defines none for another byte; the term here is then the byte less 0x30, stopping at 0: DESIGN CHOICE, used by no rule (log 28). -/
def digitValue (b : Byte) : Nat := b.toNat - 0x30

/-- `parse_dec` (R16): the first byte is the most significant digit. R16 defines it only where `digits_ok` holds; the value elsewhere is a DESIGN CHOICE (log 28), and every use is after the digit checks. -/
def parseDec : List Byte → Nat
  | [] => 0
  | b :: bs => digitValue b * 10 ^ bs.length + parseDec bs

/-- `dec_n(v)` (R16): byte k is `0x30 + ((v / 10^(n-1-k)) mod 10)`. R16 defines it for `v < 10^n`; for a greater v the term here is v's low n digits, a DESIGN CHOICE (log 28), and every use is after the range checks. -/
def decDigits (n v : Nat) : List Byte :=
  (List.range n).map fun k => BitVec.ofNat 8 (0x30 + v / 10 ^ (n - 1 - k) % 10)

/-- `first_non_digit(s, base)` (R16): the least `base + k` such that `s[k]` is no digit. -/
def firstNonDigit : List Byte → Nat → Option Nat
  | [], _ => none
  | b :: bs, base => if isDigit b then firstNonDigit bs (base + 1) else some base

/-- `rep(n, b)` (R11). -/
def rep (n : Nat) (b : Byte) : List Byte := List.replicate n b

/-- `frame(P) = [STX] ++ P ++ [ETX] ++ [lrc(P ++ [ETX])]` (R90, R123). -/
def frame (p : List Byte) : List Byte :=
  [Config.stx] ++ p ++ [Config.etx] ++ [xorFold (p ++ [Config.etx])]

/-- `strip(f) = f[1 : len(f)-2]` (R123): by position, with no check of the bytes removed (R137). -/
def strip (f : List Byte) : List Byte := slice f 1 (f.length - 2)

end Sys2Proof.Machine
end

