-- ==== Sys2Proof/Machine/State.lean ====
section
/-! DEFINITION. The machine's state (R20, R21, R39, R42), the model faults and refusals (R18, R216), and the state at launch (R231). Plain data throughout. -/

namespace Sys2Proof.Machine

/-- A model fault (R216). The model takes R216's first choice: a fault is RECORDED in the state's FAULTS set and the step goes on, so no step ends in one. -/
inductive Fault where
  /-- F_UNWRITTEN. Raised by a command or a CALLER read of a register or BUF byte that is unwritten (R43); the read returns a free value. Safe: no claim about a fault-free run depends on the value. -/
  | unwritten
  /-- F_BUSY_WRITE. Raised by a CALLER write to a writable register, BUF or CMD while BUSY = 1 (R45); the write is ignored and OVERRUN is set. Safe: the block's own behaviour is modelled as well. -/
  | busyWrite
deriving DecidableEq, Repr

/-- A refusal: "a spelling the model has no meaning for" (R18). -/
inductive Refusal where
  /-- An instruction the model gives no meaning. Raised by no arm of exec: every instruction is modelled. Safe. -/
  | notModelled (mnemonic : String)
  /-- A CALLER access R22 does not have: a whole access to a byte-array register, or an element access to a register that is no array. Raised by the CALLER's turn (log 9). Safe: the run stops. -/
  | noSuchAccess
  /-- A jump to a label the CALLER's program does not declare, or a condition on a field of another register (R98). Raised by the CALLER's turn (log 17). Safe: the run stops. -/
  | illFormedStatement
deriving DecidableEq, Repr

/-- The model-only set FAULTS (R216): which of the two faults it holds. -/
structure FaultSet where
  unwritten : Bool
  busyWrite : Bool
deriving DecidableEq, Repr

/-- FAULTS with nothing recorded (R216, R231). -/
def FaultSet.empty : FaultSet := { unwritten := false, busyWrite := false }

/-- How the last command finished: STATUS.OUTCOME (R200). Value 7 is reserved and never written. -/
inductive CmdOutcome where
  | none | ok | sent | rejected | noAnswer | response | error
deriving DecidableEq, Repr

/-- The error codes of ERR.CODE (R201). Values 13 to 15 are reserved and never written. -/
inductive ErrCode where
  | none | checksumMismatch | framingError | lengthMismatch | fieldFormatError | amountOutOfRange
  | initializationFailed | truncatedAnswer | missingTerminator | unrecognizedAnswerFlag
  /-- reserved: never raised by PEHE (R203) -/
  | unknownCurrency
  | emptyInput | illegalCommand
deriving DecidableEq, Repr

/-- CTRL's one writable bit (R25). The reserved bits hold nothing and read 0. -/
structure Ctrl where
  lenient : Bool
deriving DecidableEq, Repr

/-- The fields of STATUS (R26). It has no reserved bit and no CALLER write reaches it; `Status.word` gives the byte software reads. -/
structure Status where
  busy : Bool
  respValid : Bool
  frameAvail : Bool
  check : Bool
  outcome : CmdOutcome
  overrun : Bool
deriving DecidableEq, Repr

/-- The fields of ERR (R28). The reserved bits read 0; `Err.word` gives the byte software reads. -/
structure Err where
  code : ErrCode
  eotMissing : Bool
deriving DecidableEq, Repr

/-- A register, or one element of a byte-array register, together with whether it has been written (R43). `written = false` is the spec's state "unwritten": `val` is then never used, and a read draws a free value (log 1). -/
structure Slot (α : Type) where
  val : α
  written : Bool
deriving DecidableEq, Repr

/-- A register that has been written. -/
def Slot.of {α : Type} (a : α) : Slot α := { val := a, written := true }

/-- An unwritten numeric register. The value under the mark is 0 (DESIGN CHOICE, log 1). -/
def Slot.unwrittenBits (w : Nat) : Slot (BitVec w) := { val := 0, written := false }

/-- An unwritten TimeoutVal register. The value under the mark is 0 (DESIGN CHOICE, log 1). -/
def Slot.unwrittenTimeout : Slot TimeoutVal := { val := 0, written := false }

/-- A byte-array register of `n` bytes. -/
abbrev ByteReg (n : Nat) := Vector (Slot Byte) n

/-- A byte-array register none of whose elements has been written. -/
def ByteReg.unwritten (n : Nat) : ByteReg n := Vector.replicate n (Slot.unwrittenBits 8)

/-- BUF's contents: the written bytes, index and value, indices strictly rising. An index that is not listed is an unwritten byte: it holds no value (R43, log 3). -/
abbrev Memory := List Host.Cell

/-- The ASK block (R34, R35). -/
structure AskBlock where
  pos : ByteReg 2
  mant : Slot (BitVec 32)
  scale : Slot (BitVec 4)
  answerFlag : Slot Byte
  paymentMode : Slot Byte
  transactionType : Slot Byte
  currency : ByteReg 3
  priv : ByteReg 10
  delay : ByteReg 4
  auth : ByteReg 4
deriving DecidableEq, Repr

/-- The RESP block (R36, R37). -/
structure RespBlock where
  pos : ByteReg 2
  result : Slot (BitVec 4)
  amount : Slot (BitVec 27)
  paymentMode : Slot Byte
  reportLen : Slot (BitVec 6)
  report : ByteReg 55
  currency : ByteReg 3
  priv : ByteReg 10
deriving DecidableEq, Repr

/-- STATE, the ENGINE's program counter (R40). The values 0x06, 0x07 and 0x0E to 0x1F are never entered and have no constructor. -/
inductive EngineState where
  | idle
  | sAwaitAck | sSending | sAwaitPostAck | sCloseSent | sCloseRejected
  | rAwaitEnq | rAccepting | rReading | rVerifying | rAwaitEot | rDecoding
deriving DecidableEq, Repr

structure State where
  /-- the open parameters of R8; no step changes them (log 4) -/
  params : Params
  /-- CTRL (R25) -/
  ctrl : Ctrl
  /-- STATUS (R26) -/
  status : Status
  /-- ERR (R28) -/
  err : Err
  /-- ERR_INFO0 (R29) -/
  errInfo0 : Byte
  /-- ERR_INFO1 (R29) -/
  errInfo1 : Byte
  /-- LRC_VALUE (R30) -/
  lrcValue : Byte
  /-- TIMEOUT_ARG (R31) -/
  timeoutArg : Slot TimeoutVal
  /-- BUF_LEN (R32) -/
  bufLen : BitVec 16
  /-- BUF (R33, R60) -/
  buf : Memory
  /-- the ASK block (R34) -/
  ask : AskBlock
  /-- the RESP block (R36) -/
  resp : RespBlock
  /-- STATE (R40) -/
  engine : EngineState
  /-- SAVED_TIMEOUT (R39) -/
  savedTimeout : Slot TimeoutVal
  /-- TO_SAVED (R39) -/
  toSaved : Bool
  /-- EXP_N (R39) -/
  expN : BitVec 16
  /-- RX_COUNT (R39) -/
  rxCount : BitVec 16
  /-- RD_GOT (R39) -/
  rdGot : Bool
  /-- RD_BYTE (R39) -/
  rdByte : Byte
  /-- EOT_OK (R39) -/
  eotOk : Bool
  /-- EOT_GOT (R39) -/
  eotGot : Bool
  /-- EOT_BYTE (R39) -/
  eotByte : Byte
  /-- TX_LOG (R64), oldest first -/
  txLog : List Byte
  /-- RX_Q (R65), head first -/
  rxQ : List Byte
  /-- T_TIMEOUT (R66) -/
  tTimeout : TimeoutVal
  /-- FAULTS (R216) -/
  faults : FaultSet
  /-- the model's own: how many steps have drawn a free value (log 2) -/
  draws : Nat
  /-- the model's own: the turns to come (R5, R211; log 6) -/
  schedule : List Turn
  /-- the CALLER agent's program (R98; log 17) -/
  program : List Stmt
  /-- the CALLER agent's position in its program (log 17) -/
  callerPc : Nat
  /-- the CALLER agent's own copy of what its last read returned (log 17) -/
  rdata : Nat
deriving DecidableEq, Repr

/-- STATUS after reset (R26, R231). -/
def Status.reset : Status :=
  { busy := false, respValid := false, frameAvail := false, check := false, outcome := .none
    overrun := false }

/-- ERR after reset (R28, R231). -/
def Err.reset : Err := { code := .none, eotMissing := false }

/-- The ASK block after reset: all ten registers unwritten (R231). -/
def AskBlock.reset : AskBlock :=
  { pos := ByteReg.unwritten 2, mant := Slot.unwrittenBits 32, scale := Slot.unwrittenBits 4
    answerFlag := Slot.unwrittenBits 8, paymentMode := Slot.unwrittenBits 8
    transactionType := Slot.unwrittenBits 8, currency := ByteReg.unwritten 3
    priv := ByteReg.unwritten 10, delay := ByteReg.unwritten 4
    auth := ByteReg.unwritten 4 }

/-- The RESP block after reset: all eight registers unwritten (R231). -/
def RespBlock.reset : RespBlock :=
  { pos := ByteReg.unwritten 2, result := Slot.unwrittenBits 4
    amount := Slot.unwrittenBits 27, paymentMode := Slot.unwrittenBits 8
    reportLen := Slot.unwrittenBits 6, report := ByteReg.unwritten 55
    currency := ByteReg.unwritten 3, priv := ByteReg.unwritten 10 }

/-- The state at launch (R230, R231): every register at its reset value, TX_LOG empty, RX_Q the sequence the model is given, T_TIMEOUT = T_TIMEOUT_INIT, FAULTS empty. The parameters and RX_Q are arguments (R8, R231). -/
def State.launch (p : Params) (q : List Byte) : State :=
  { params := p
    ctrl := { lenient := false }
    status := Status.reset
    err := Err.reset
    errInfo0 := 0
    errInfo1 := 0
    lrcValue := 0
    timeoutArg := Slot.unwrittenTimeout
    bufLen := 0
    buf := []
    ask := AskBlock.reset
    resp := RespBlock.reset
    engine := .idle
    savedTimeout := Slot.unwrittenTimeout
    toSaved := false
    expN := 0
    rxCount := 0
    rdGot := false
    rdByte := 0
    eotOk := false
    eotGot := false
    eotByte := 0
    txLog := []
    rxQ := q
    tTimeout := p.timeoutInit
    faults := FaultSet.empty
    draws := 0
    schedule := []
    program := []
    callerPc := 0
    rdata := 0 }

/-- The machine right after launch, with the test instantiation of the open parameters (log 4) and nothing queued by the terminal (log 19). -/
def State.reset : State := State.launch Params.launch []

end Sys2Proof.Machine
end

