-- ==== Sys2Proof/Machine/Flags.lean ====
section
/-! DEFINITION. The numbers of the named values (R40, R200, R201), the bytes software reads from CTRL, STATUS and ERR (R25, R26, R28), and what acceptance and finish do to the flags (R206, R207). -/

namespace Sys2Proof.Machine

/-- The values of STATUS.OUTCOME (R200). -/
def CmdOutcome.code : CmdOutcome → BitVec 3
  | .none => 0 | .ok => 1 | .sent => 2 | .rejected => 3 | .noAnswer => 4 | .response => 5
  | .error => 6

/-- The values of ERR.CODE (R201). -/
def ErrCode.code : ErrCode → BitVec 4
  | .none => 0 | .checksumMismatch => 1 | .framingError => 2 | .lengthMismatch => 3
  | .fieldFormatError => 4 | .amountOutOfRange => 5 | .initializationFailed => 6
  | .truncatedAnswer => 7 | .missingTerminator => 8 | .unrecognizedAnswerFlag => 9
  | .unknownCurrency => 10 | .emptyInput => 11 | .illegalCommand => 12

/-- The values of STATE (R40). -/
def EngineState.code : EngineState → BitVec 5
  | .idle => 0x00
  | .sAwaitAck => 0x01 | .sSending => 0x02 | .sAwaitPostAck => 0x03 | .sCloseSent => 0x04
  | .sCloseRejected => 0x05
  | .rAwaitEnq => 0x08 | .rAccepting => 0x09 | .rReading => 0x0A | .rVerifying => 0x0B
  | .rAwaitEot => 0x0C | .rDecoding => 0x0D

/-- The read-wait states, in which a transport read is pending (R41). -/
def EngineState.readWait : EngineState → Bool
  | .sAwaitAck | .sAwaitPostAck | .rAwaitEnq | .rAwaitEot | .rReading => true
  | .idle | .sSending | .sCloseSent | .sCloseRejected | .rAccepting | .rVerifying
  | .rDecoding => false

/-- A bit of the value 0 or 1. -/
def bit (b : Bool) : BitVec 1 := BitVec.ofBool b

/-- A flag byte: 1 or 0 (ERR_INFO1's "1 if a byte was read", R202). -/
def flagByte (b : Bool) : Byte := if b then 1 else 0

/-- The byte read from CTRL (R25): LENIENT [0], the reserved bits 0. -/
def Ctrl.word (c : Ctrl) : Byte := (0 : BitVec 7) ++ bit c.lenient

/-- What a write stores in CTRL (R25): bit 0; a write to a reserved bit has no effect (R23). -/
def Ctrl.ofWord (v : Byte) : Ctrl := { lenient := v.getLsbD 0 }

/-- The byte read from STATUS (R26): BUSY [0], RESP_VALID [1], FRAME_AVAIL [2], CHECK [3], OUTCOME [6:4], OVERRUN [7]. -/
def Status.word (s : Status) : Byte :=
  bit s.overrun ++ s.outcome.code ++ bit s.check ++ bit s.frameAvail ++ bit s.respValid ++
    bit s.busy

/-- The byte read from ERR (R28): CODE [3:0], EOT_MISSING [4], the reserved bits 0. -/
def Err.word (e : Err) : Byte := (0 : BitVec 3) ++ bit e.eotMissing ++ e.code.code

/-- STATUS at acceptance (R206): BUSY set, OUTCOME, RESP_VALID, FRAME_AVAIL and CHECK cleared, OVERRUN kept. -/
def Status.accepted (s : Status) : Status :=
  { busy := true, respValid := false, frameAvail := false, check := false, outcome := .none
    overrun := s.overrun }

/-- STATUS at `finish` (R207): OUTCOME set, BUSY cleared, the rest as the command left it. -/
def Status.finished (s : Status) (o : CmdOutcome) : Status :=
  { s with outcome := o, busy := false }

/-- FAULTS with one more fault recorded; it never shrinks (R216). -/
def FaultSet.record (fs : FaultSet) : Fault → FaultSet
  | .unwritten => { fs with unwritten := true }
  | .busyWrite => { fs with busyWrite := true }

end Sys2Proof.Machine
end

