-- ==== Sys2Proof/Machine/Memory.lean ====
section
/-! DEFINITION. BUF as a memory (R60 to R63): one canonical form, read and write of one byte, `MemWrite` of a sequence (R13). -/

namespace Sys2Proof.Machine

/-- The canonical form: indices strictly rising. No entry can equal what an unlisted index reads as, since an unlisted index holds no value. -/
abbrev Memory.wf (m : Memory) : Prop := m.Pairwise (fun c d => c.1 < d.1)

/-- Every listed index lies in BUF (R60). -/
abbrev Memory.within (m : Memory) (cap : Nat) : Prop := ∀ c ∈ m, c.1 < cap

/-- The byte at an index; none where the byte is unwritten (R43). -/
def Memory.read : Memory → Nat → Option Byte
  | [], _ => none
  | (a, b) :: m, k => if k = a then some b else Memory.read m k

/-- `BUF[k] <- v`. -/
def Memory.write : Memory → Nat → Byte → Memory
  | [], k, v => [(k, v)]
  | (a, b) :: m, k, v =>
    if k < a then (k, v) :: (a, b) :: m
    else if k = a then (a, v) :: m
    else (a, b) :: Memory.write m k v

/-- `MemWrite(k, len(s), s)`: `BUF[k+j] <- s[j]` in index order (R13). -/
def Memory.writeAll : Memory → Nat → List Byte → Memory
  | m, _, [] => m
  | m, k, b :: bs => Memory.writeAll (Memory.write m k b) (k + 1) bs

end Sys2Proof.Machine
end

