-- ==== Sys2Proof/Machine/Operands.lean ====
section
/-! DEFINITION. The operands commands read (R88): registers, byte-array registers and slices of BUF. Where one is unwritten the read records F_UNWRITTEN and its value is a free one (R43, R216). -/

namespace Sys2Proof.Machine

/-- The value drawn now for element `i` of register `r` (log 2). -/
def State.drawn (s : State) (r i : Nat) : Nat := Config.drawn s.draws r i

/-- What a read of element `i` of register `r` returns: the value held, or where the register is unwritten a free value (R216). -/
def State.bitsAt {w : Nat} (s : State) (r i : Nat) (x : Slot (BitVec w)) : BitVec w :=
  if x.written then x.val else BitVec.ofNat w (s.drawn r i)

/-- The same for a register that holds a TimeoutVal. -/
def State.timeoutAt (s : State) (r : Nat) (x : Slot TimeoutVal) : TimeoutVal :=
  if x.written then x.val else s.drawn r 0

/-- The bytes of a byte-array register. -/
def State.bytesAt {n : Nat} (s : State) (r : Nat) (x : ByteReg n) : List Byte :=
  x.toList.zipIdx.map fun p => s.bitsAt r p.2 p.1

/-- Every byte of a byte-array register is written. -/
def ByteReg.written {n : Nat} (x : ByteReg n) : Bool := x.toList.all (·.written)

/-- A byte-array register holding these bytes. Every rule that writes one gives exactly as many bytes as it has. -/
def ByteReg.ofBytes (n : Nat) (bs : List Byte) : ByteReg n :=
  Vector.ofFn fun k => Slot.of (at_ bs k.val)

/-- One BUF byte: `BUF[k]` (R60). -/
def State.bufByte (s : State) (k : Nat) : Byte :=
  match s.buf.read k with
  | some b => b
  | none => BitVec.ofNat 8 (s.drawn Reg.buf.number k)

/-- `MemRead(0, n)`, the sequence `BUF[0:n]` (R13). -/
def State.bufBytes (s : State) (n : Nat) : List Byte := (List.range n).map s.bufByte

/-- Every byte of `BUF[0:n]` is written. -/
def State.bufWritten (s : State) (n : Nat) : Bool :=
  (List.range n).all fun k => (s.buf.read k).isSome

/-- Records a read: where something read was unwritten, F_UNWRITTEN enters FAULTS and the draw counter moves on (R216); else nothing changes. -/
def State.noteRead (s : State) (written : Bool) : State :=
  if written then s
  else { s with faults := s.faults.record .unwritten, draws := s.draws + 1 }

/-- An Ask as values: what ENCODE_ASK and SEND read, what DECODE_ASK writes (R34, R126). -/
structure AskVal where
  pos : List Byte
  mant : BitVec 32
  scale : BitVec 4
  answerFlag : Byte
  paymentMode : Byte
  transactionType : Byte
  currency : List Byte
  priv : List Byte
  delay : List Byte
  auth : List Byte
deriving DecidableEq, Repr

/-- A Response as values (R36, R130); the report is empty or 55 bytes. -/
structure RespVal where
  pos : List Byte
  result : BitVec 4
  amount : BitVec 27
  paymentMode : Byte
  report : List Byte
  currency : List Byte
  priv : List Byte
deriving DecidableEq, Repr

/-- The Ask held in the ASK block. -/
def State.askVal (s : State) : AskVal :=
  { pos := s.bytesAt Reg.askPos.number s.ask.pos
    mant := s.bitsAt Reg.askAmtMant.number 0 s.ask.mant
    scale := s.bitsAt Reg.askAmtScale.number 0 s.ask.scale
    answerFlag := s.bitsAt Reg.askAnswerFlag.number 0 s.ask.answerFlag
    paymentMode := s.bitsAt Reg.askPaymentMode.number 0 s.ask.paymentMode
    transactionType := s.bitsAt Reg.askTransactionType.number 0 s.ask.transactionType
    currency := s.bytesAt Reg.askCurrency.number s.ask.currency
    priv := s.bytesAt Reg.askPrivate.number s.ask.priv
    delay := s.bytesAt Reg.askDelay.number s.ask.delay
    auth := s.bytesAt Reg.askAuth.number s.ask.auth }

/-- Every register of the ASK block is written (R124: "F_UNWRITTEN if any ASK register is unwritten"). -/
def AskBlock.written (a : AskBlock) : Bool :=
  a.pos.written && a.mant.written && a.scale.written && a.answerFlag.written &&
    a.paymentMode.written && a.transactionType.written && a.currency.written &&
    a.priv.written && a.delay.written && a.auth.written

/-- The ASK block holding an Ask (R128). -/
def AskBlock.ofVal (v : AskVal) : AskBlock :=
  { pos := ByteReg.ofBytes 2 v.pos, mant := Slot.of v.mant, scale := Slot.of v.scale
    answerFlag := Slot.of v.answerFlag, paymentMode := Slot.of v.paymentMode
    transactionType := Slot.of v.transactionType, currency := ByteReg.ofBytes 3 v.currency
    priv := ByteReg.ofBytes 10 v.priv, delay := ByteReg.ofBytes 4 v.delay
    auth := ByteReg.ofBytes 4 v.auth }

/-- RESP_REPORT_LEN as read. -/
def State.respReportLen (s : State) : BitVec 6 :=
  s.bitsAt Reg.respReportLen.number 0 s.resp.reportLen

/-- The Response held in the RESP block. RESP_REPORT is part of it only when RESP_REPORT_LEN = 55 (R134). -/
def State.respVal (s : State) : RespVal :=
  { pos := s.bytesAt Reg.respPos.number s.resp.pos
    result := s.bitsAt Reg.respResult.number 0 s.resp.result
    amount := s.bitsAt Reg.respAmount.number 0 s.resp.amount
    paymentMode := s.bitsAt Reg.respPaymentMode.number 0 s.resp.paymentMode
    report := if s.respReportLen.toNat = Config.reportLen
      then s.bytesAt Reg.respReport.number s.resp.report else []
    currency := s.bytesAt Reg.respCurrency.number s.resp.currency
    priv := s.bytesAt Reg.respPrivate.number s.resp.priv }

/-- `write_resp(v)` (R131): every register of the RESP block, but RESP_REPORT only when the report has 55 bytes. -/
def RespBlock.store (r : RespBlock) (v : RespVal) : RespBlock :=
  { pos := ByteReg.ofBytes 2 v.pos, result := Slot.of v.result, amount := Slot.of v.amount
    paymentMode := Slot.of v.paymentMode
    reportLen := Slot.of (BitVec.ofNat 6 v.report.length)
    report := if v.report.length = Config.reportLen
      then ByteReg.ofBytes 55 v.report else r.report
    currency := ByteReg.ofBytes 3 v.currency, priv := ByteReg.ofBytes 10 v.priv }

/-- Every register ENCODE_RESPONSE reads is written. It reads RESP_REPORT_LEN, RESP_RESULT and RESP_AMOUNT in the order of its checks, each only when the checks before it passed, and the others only when all passed; RESP_REPORT only when RESP_REPORT_LEN = 55 (R134, R135). -/
def State.respReadsWritten (s : State) : Bool :=
  let r := s.resp
  let l := s.respReportLen.toNat
  r.reportLen.written &&
    ((l != Config.reportLen && l != 0) ||
      (r.result.written &&
        (decide (9 < s.respVal.result.toNat) ||
          (r.amount.written &&
            (decide (Config.respAmountMax < s.respVal.amount.toNat) ||
              (r.pos.written && r.paymentMode.written && r.currency.written &&
                r.priv.written && (l != Config.reportLen || r.report.written)))))))

end Sys2Proof.Machine
end

