-- ==== Sys2Proof/Machine/Ops.lean ====
section
/-! DEFINITION. The shared operations: acceptance and `finish`, which take the place of exception entry and return (R206, R207, R209); `raise` (R15); the refused write (R45); `MemWrite` and `TxWrite` (R13, R14); reset (R230). -/

namespace Sys2Proof.Machine

/-- An error a function raises: its code and detail bytes (R15, R120). -/
structure Failure where
  code : ErrCode
  info0 : Byte
  info1 : Byte
deriving DecidableEq, Repr

/-- The location number SAVED_TIMEOUT draws from; it has no register number (R39). -/
def savedTimeoutLocation : Nat := 0x100

/-- `T_TIMEOUT <- SAVED_TIMEOUT` when TO_SAVED = 1 (R207, R230). -/
def State.restoreTimeout (s : State) : State :=
  if s.toSaved then
    { s.noteRead s.savedTimeout.written with
      tTimeout := s.timeoutAt savedTimeoutLocation s.savedTimeout }
  else s

/-- Acceptance of a command (R206), up to the choice of the command. -/
def State.accept (s : State) : State :=
  { s with
    status := s.status.accepted
    err := { code := .none, eotMissing := false }
    errInfo0 := 0
    errInfo1 := 0
    toSaved := false }

/-- `finish(outcome, code, i0, i1)` (R207). -/
def State.finish (s : State) (o : CmdOutcome) (c : ErrCode) (i0 i1 : Byte) : State :=
  { s.restoreTimeout with
    status := s.status.finished o
    err := { s.err with code := c }
    errInfo0 := i0
    errInfo1 := i1
    toSaved := false
    engine := .idle }

/-- `raise E(i0, i1)` is `finish(ERROR, E, i0, i1)` (R15, R120). -/
def State.raise (s : State) (f : Failure) : State :=
  s.finish .error f.code f.info0 f.info1

/-- A CALLER write refused because BUSY = 1 (R45): OVERRUN is set and F_BUSY_WRITE recorded; nothing else changes. -/
def State.busyWrite (s : State) : State :=
  { s with
    status := { s.status with overrun := true }
    faults := s.faults.record .busyWrite }

/-- A write of a command word to CMD (R24, R45, R206): with BUSY = 0 the command is accepted and its accept step runs; with BUSY = 1 the write is refused. -/
def State.command (s : State) (acceptStep : State → State) : State :=
  if s.status.busy then s.busyWrite else acceptStep s.accept

/-- A write of an illegal word to CMD (R87, R206). -/
def State.illegalCommand (s : State) (c : Byte) : State :=
  s.command fun t => t.raise { code := .illegalCommand, info0 := c, info1 := 0 }

/-- `MemWrite(0, len(s), s)` and `R[BUF_LEN] <- len(s)`: a frame is left in BUF (R62, R124). -/
def State.putFrame (s : State) (f : List Byte) : State :=
  { s with buf := s.buf.writeAll 0 f, bufLen := BitVec.ofNat 16 f.length }

/-- `TxWrite(s)` (R68). -/
def State.txWrite (s : State) (bs : List Byte) : State := { s with txLog := s.txLog ++ bs }

/-- Save T_TIMEOUT and set it from TIMEOUT_ARG (R151, R171). The caller records the read. -/
def State.setTimeout (s : State) : State :=
  { s with
    savedTimeout := Slot.of s.tTimeout
    toSaved := true
    tTimeout := s.timeoutAt Reg.timeoutArg.number s.timeoutArg }

/-- Reset (R230, R231): the timeout restored if one is saved, then every register of PEHE at its reset value. The transport's streams, FAULTS, the parameters, and what belongs to the other agents and to the model stay. -/
def State.hardReset (s : State) : State :=
  let t := s.restoreTimeout
  { State.launch t.params t.rxQ with
    txLog := t.txLog
    tTimeout := t.tTimeout
    faults := t.faults
    draws := t.draws
    schedule := t.schedule
    program := t.program
    callerPc := t.callerPc
    rdata := t.rdata }

end Sys2Proof.Machine
end

