-- ==== Sys2Proof/Machine/Checksum.lean ====
section
/-! DEFINITION. The checksum family: LRC (R112) and LRC_CHECK (R114). -/

namespace Sys2Proof.Machine

/-- The input of the commands that work on `BUF[0:BUF_LEN]` (R32). -/
def State.input (s : State) : List Byte := s.bufBytes s.bufLen.toNat

/-- Records the read of `BUF[0:BUF_LEN]`. -/
def State.noteInput (s : State) : State := s.noteRead (s.bufWritten s.bufLen.toNat)

/-- LRC's accept step (R112). -/
def lrcStep (s : State) : State :=
  match lrc s.input with
  | none =>
    { s with lrcValue := 0x00 }.raise { code := .emptyInput, info0 := 0, info1 := 0 }
  | some v => { s.noteInput with lrcValue := v }.finish .ok .none 0 0

/-- LRC_CHECK's accept step (R114). -/
def lrcCheckStep (s : State) : State :=
  let f := s.input
  let t := s.noteInput
  let t := { t with status := { t.status with check := lrcOk f } }
  if lrcOk f then t.finish .ok .none 0 0
  else if 3 ≤ f.length then t.finish .ok .none (lrcComputed f) (lrcReceived f)
  else t.finish .ok .none 0 0

/-- LRC (R112). -/
def execLrc (s : State) : Host.Outcome State Fault Refusal := .next (s.command lrcStep)

/-- LRC_CHECK (R114). -/
def execLrcCheck (s : State) : Host.Outcome State Fault Refusal := .next (s.command lrcCheckStep)

end Sys2Proof.Machine
end

