-- ==== Sys2Proof/Machine/Codec.lean ====
section
/-! DEFINITION. The packet codec: the pure functions amount_cents, enc_ask, dec_ask, dec_resp and enc_resp (R122 to R134) and the four commands over them. -/

namespace Sys2Proof.Machine

/-- AMOUNT_OUT_OF_RANGE(0, 0) (R202). -/
def Failure.amount : Failure := { code := .amountOutOfRange, info0 := 0, info1 := 0 }

/-- LENGTH_MISMATCH(N mod 256, N / 256) (R202). -/
def Failure.length (n : Nat) : Failure :=
  { code := .lengthMismatch, info0 := BitVec.ofNat 8 (n % 256), info1 := BitVec.ofNat 8 (n / 256) }

/-- CHECKSUM_MISMATCH of a frame (R126, R130): computed and received checksum where the frame has three bytes or more, else 0 and 0. -/
def Failure.checksum (f : List Byte) : Failure :=
  if 3 ≤ f.length then
    { code := .checksumMismatch, info0 := lrcComputed f, info1 := lrcReceived f }
  else { code := .checksumMismatch, info0 := 0, info1 := 0 }

/-- The least cents value below 1 or above 9999999 fails (R122). -/
def centsInRange (c : Nat) : Except Failure Nat :=
  if c < Config.amountMinCents ∨ Config.amountMaxCents < c then .error .amount else .ok c

/-- `amount_cents(m, s)` (R122). -/
def amountCents (m s : Nat) : Except Failure Nat :=
  if s ≤ 2 then centsInRange (m * 10 ^ (2 - s))
  else if m % 10 ^ (s - 2) ≠ 0 then .error .amount
  else centsInRange (m / 10 ^ (s - 2))

/-- The Ask payload (R92, R124) for an amount of `c` cents. -/
def askPayload (a : AskVal) (c : Nat) : List Byte :=
  a.pos ++ decDigits Config.amountDigits c ++ [a.answerFlag] ++ [a.paymentMode] ++
    [a.transactionType] ++ a.currency ++ a.priv ++ a.delay ++ a.auth

/-- `enc_ask` (R124), with the length check that never fails (R125). -/
def encAsk (a : AskVal) : Except Failure (List Byte) :=
  match amountCents a.mant.toNat a.scale.toNat with
  | .error e => .error e
  | .ok c =>
    if (askPayload a c).length ≠ Config.askPayloadLen then
      .error (.length (askPayload a c).length)
    else .ok (frame (askPayload a c))

/-- The digit checks of a payload, field by field in the order given: the first non-digit byte fails, with its payload offset and value (R126, R130, R133). -/
def digitFailure (p : List Byte) : List (Nat × Nat) → Option Failure
  | [] => none
  | (a, b) :: fields =>
    match firstNonDigit (slice p a b) a with
    | some k =>
      some { code := .fieldFormatError, info0 := BitVec.ofNat 8 k, info1 := at_ p k }
    | none => digitFailure p fields

/-- The Ask fields that must be digits (R92, R96, R126). -/
def askDigitFields : List (Nat × Nat) := [(0, 2), (2, 10), (13, 16)]

/-- The fields of an Ask payload (R92, R126); private is not read and becomes blank. -/
def askOfPayload (p : List Byte) : AskVal :=
  { pos := slice p 0 2
    mant := BitVec.ofNat 32 (parseDec (slice p 2 10))
    scale := 2
    answerFlag := at_ p 10
    paymentMode := at_ p 11
    transactionType := at_ p 12
    currency := slice p 13 16
    priv := rep Config.privateLen Config.blank
    delay := slice p 26 30
    auth := slice p 30 34 }

/-- `dec_ask(f)` (R126). -/
def decAsk (f : List Byte) : Except Failure AskVal :=
  if !lrcOk f then .error (.checksum f)
  else if f.length - 3 ≠ Config.askPayloadLen then .error (.length (f.length - 3))
  else match digitFailure (strip f) askDigitFields with
    | some e => .error e
    | none => .ok (askOfPayload (strip f))

/-- Where the two Response layouts differ (R93, R94): the currency and private fields, and whether there is a report at 12:67. -/
structure RespLayout where
  currency : Nat × Nat
  priv : Nat × Nat
  full : Bool
deriving DecidableEq, Repr

/-- The layout of a Response payload, by its length (R97, R130). -/
def respLayout (n : Nat) : Option RespLayout :=
  if n = Config.respFullLen then some { currency := (67, 70), priv := (70, 80), full := true }
  else if n = Config.respLimitedLen then
    some { currency := (12, 15), priv := (15, 25), full := false }
  else none

/-- The Response fields that must be digits (R93, R94, R96, R130). -/
def respDigitFields (l : RespLayout) : List (Nat × Nat) := [(0, 2), (2, 3), (3, 11), l.currency]

/-- The fields of a Response payload (R93, R94, R130). -/
def respOfPayload (l : RespLayout) (p : List Byte) : RespVal :=
  { pos := slice p 0 2
    result := BitVec.ofNat 4 (digitValue (at_ p 2))
    amount := BitVec.ofNat 27 (parseDec (slice p 3 11))
    paymentMode := at_ p 11
    report := if l.full then slice p 12 67 else []
    currency := slice p l.currency.1 l.currency.2
    priv := slice p l.priv.1 l.priv.2 }

/-- `dec_resp(f)` (R130). -/
def decResp (f : List Byte) : Except Failure RespVal :=
  if !lrcOk f then .error (.checksum f)
  else match respLayout (f.length - 3) with
    | none => .error (.length (f.length - 3))
    | some l =>
      match digitFailure (strip f) (respDigitFields l) with
      | some e => .error e
      | none => .ok (respOfPayload l (strip f))

/-- The Response payload (R93, R94, R134). -/
def respPayload (v : RespVal) : List Byte :=
  v.pos ++ [BitVec.ofNat 8 (0x30 + v.result.toNat)] ++
    decDigits Config.amountDigits v.amount.toNat ++ [v.paymentMode] ++ v.report ++
    v.currency ++ v.priv

/-- `enc_resp` (R134) of the Response `v` with RESP_REPORT_LEN = `l`. -/
def encResp (l : Nat) (v : RespVal) : Except Failure (List Byte) :=
  if l ≠ Config.reportLen ∧ l ≠ 0 then
    .error { code := .lengthMismatch, info0 := BitVec.ofNat 8 l, info1 := 0 }
  else if 9 < v.result.toNat then
    .error { code := .fieldFormatError, info0 := 2, info1 := BitVec.ofNat 8 v.result.toNat }
  else if Config.respAmountMax < v.amount.toNat then .error .amount
  else .ok (frame (respPayload v))

/-- ENCODE_ASK's accept step (R124). -/
def encodeAskStep (s : State) : State :=
  match encAsk s.askVal with
  | .ok f => ((s.noteRead s.ask.written).putFrame f).finish .ok .none 0 0
  | .error e => (s.noteRead s.ask.written).raise e

/-- DECODE_ASK's accept step (R127, R128). -/
def decodeAskStep (s : State) : State :=
  match decAsk s.input with
  | .ok a => { s.noteInput with ask := AskBlock.ofVal a }.finish .ok .none 0 0
  | .error e => s.noteInput.raise e

/-- `write_resp(v); R[STATUS].RESP_VALID <- 1` (R131, R182). -/
def State.writeResp (s : State) (v : RespVal) : State :=
  { s with resp := s.resp.store v, status := { s.status with respValid := true } }

/-- DECODE_RESPONSE's accept step (R131). -/
def decodeResponseStep (s : State) : State :=
  match decResp s.input with
  | .ok v => (s.noteInput.writeResp v).finish .ok .none 0 0
  | .error e => s.noteInput.raise e

/-- ENCODE_RESPONSE's accept step (R134, R135). -/
def encodeResponseStep (s : State) : State :=
  match encResp s.respReportLen.toNat s.respVal with
  | .ok f => ((s.noteRead s.respReadsWritten).putFrame f).finish .ok .none 0 0
  | .error e => (s.noteRead s.respReadsWritten).raise e

/-- ENCODE_ASK (R124). -/
def execEncodeAsk (s : State) : Host.Outcome State Fault Refusal := .next (s.command encodeAskStep)

/-- DECODE_ASK (R127). -/
def execDecodeAsk (s : State) : Host.Outcome State Fault Refusal := .next (s.command decodeAskStep)

/-- DECODE_RESPONSE (R131). -/
def execDecodeResponse (s : State) : Host.Outcome State Fault Refusal :=
  .next (s.command decodeResponseStep)

/-- ENCODE_RESPONSE (R135). -/
def execEncodeResponse (s : State) : Host.Outcome State Fault Refusal :=
  .next (s.command encodeResponseStep)

end Sys2Proof.Machine
end

