-- ==== Sys2Proof/Machine/Send.lean ====
section
/-! DEFINITION. The send phase: SEND's accept step and the transitions of its states (R150 to R163). -/

namespace Sys2Proof.Machine

/-- Every register SEND reads at acceptance is written (R150). -/
def State.sendReadsWritten (s : State) : Bool := s.ask.written && s.timeoutArg.written

/-- SEND's accept step (R151): the frame is built before any byte is written. -/
def sendStep (s : State) : State :=
  match encAsk s.askVal with
  | .error e => (s.noteRead s.sendReadsWritten).raise e
  | .ok f =>
    let t := (s.setTimeout.noteRead s.sendReadsWritten).putFrame f
    { t.txWrite [Config.enq] with engine := .sAwaitAck }

/-- SEND (R150). -/
def execSend (s : State) : Host.Outcome State Fault Refusal := .next (s.command sendStep)

/-- A single-byte read returned `b`: RD_GOT ← 1, RD_BYTE ← b (R39). Each of the four states that read one byte (R40) ends its read so (log 12). -/
def State.readGot (s : State) (b : Byte) : State := { s with rdGot := true, rdByte := b }

/-- A single-byte read timed out: RD_GOT ← 0; RD_BYTE, meaningful only with RD_GOT = 1, stays (R39). -/
def State.readTimedOut (s : State) : State := { s with rdGot := false }

/-- S_AWAIT_ACK, deliver b (R152, R153). -/
def awaitAckDeliver (b : Byte) (s : State) : State :=
  if b = Config.ack then { s.readGot b with engine := .sSending }
  else (s.readGot b).raise { code := .initializationFailed, info0 := b, info1 := 1 }

/-- S_AWAIT_ACK, timeout (R153). -/
def awaitAckTimeout (s : State) : State :=
  s.readTimedOut.raise { code := .initializationFailed, info0 := 0, info1 := 0 }

/-- S_SENDING (R154): the frame built at acceptance is written in one step. -/
def sendingStep (s : State) : State :=
  let f := s.bufBytes Config.askFrameLen
  { (s.noteRead (s.bufWritten Config.askFrameLen)).txWrite f with engine := .sAwaitPostAck }

/-- S_AWAIT_POST_ACK, deliver b (R155, R156). -/
def awaitPostAckDeliver (b : Byte) (s : State) : State :=
  if b = Config.ack then { s.readGot b with engine := .sCloseSent }
  else { s.readGot b with engine := .sCloseRejected }

/-- S_AWAIT_POST_ACK, timeout (R156). -/
def awaitPostAckTimeout (s : State) : State :=
  { s.readTimedOut with engine := .sCloseRejected }

/-- S_CLOSE_SENT (R157). -/
def closeSentStep (s : State) : State := (s.txWrite [Config.eot]).finish .sent .none 0 0

/-- S_CLOSE_REJECTED (R158). -/
def closeRejectedStep (s : State) : State :=
  (s.txWrite [Config.eot]).finish .rejected .none
    (if s.rdGot then s.rdByte else 0) (flagByte s.rdGot)

end Sys2Proof.Machine
end

