-- ==== Sys2Proof/Machine/Receive.lean ====
section
/-! DEFINITION. The receive phase: RECEIVE's accept step and the transitions of its states (R170 to R191). -/

namespace Sys2Proof.Machine

/-- RECEIVE's accept step (R171). -/
def receiveStep (s : State) : State :=
  { s.setTimeout.noteRead s.timeoutArg.written with
    bufLen := 0
    eotOk := false
    eotGot := false
    eotByte := 0x00
    rxCount := 0
    engine := .rAwaitEnq }

/-- RECEIVE (R170). -/
def execReceive (s : State) : Host.Outcome State Fault Refusal := .next (s.command receiveStep)

/-- R_AWAIT_ENQ, deliver b (R172). This is a single-byte read, so RD_GOT and RD_BYTE hold it (R39, log 12). -/
def awaitEnqDeliver (b : Byte) (s : State) : State :=
  if b = Config.enq then { (s.readGot b).txWrite [Config.ack] with engine := .rAccepting }
  else (s.readGot b).finish .noAnswer .none b 1

/-- R_AWAIT_ENQ, timeout (R172, R39). -/
def awaitEnqTimeout (s : State) : State := s.readTimedOut.finish .noAnswer .none 0 0

/-- The number of frame bytes an answer flag asks for (R173). -/
def expectedCount (p : Params) (flag : Byte) : Option Nat :=
  if flag = p.answerFlagFull then some Config.respFullFrameLen
  else if flag = p.answerFlagLimited then some Config.respLimitedFrameLen
  else none

/-- R_ACCEPTING (R173): the answer flag is read now, after the first ACK. -/
def acceptingStep (s : State) : State :=
  let a := s.bitsAt Reg.askAnswerFlag.number 0 s.ask.answerFlag
  let t := s.noteRead s.ask.answerFlag.written
  match expectedCount s.params a with
  | some n => { t with expN := BitVec.ofNat 16 n, rxCount := 0, engine := .rReading }
  | none => t.raise { code := .unrecognizedAnswerFlag, info0 := a, info1 := 0 }

/-- The framing check (R175), made in the deliver step that completes the read. -/
def framingCheck (s : State) : State :=
  let last := s.expN.toNat - 2
  let b0 := s.bufByte 0
  let b1 := s.bufByte last
  let t := s.noteRead ((s.buf.read 0).isSome && (s.buf.read last).isSome)
  if b0 ≠ Config.stx ∨ b1 ≠ Config.etx then
    t.raise { code := .framingError, info0 := b0, info1 := b1 }
  else { t with engine := .rVerifying }

/-- R_READING, deliver b (R174). -/
def readingDeliver (b : Byte) (s : State) : State :=
  let t := { s with buf := s.buf.write s.rxCount.toNat b, rxCount := s.rxCount + 1 }
  if t.rxCount = t.expN then framingCheck t else t

/-- R_READING, timeout (R176). -/
def readingTimeout (s : State) : State :=
  s.raise { code := .truncatedAnswer, info0 := BitVec.ofNat 8 (s.rxCount.toNat % 256), info1 := 0 }

/-- R_VERIFYING (R177): the second ACK, whatever the checksum. -/
def verifyingStep (s : State) : State := { s.txWrite [Config.ack] with engine := .rAwaitEot }

/-- R_AWAIT_EOT, deliver b (R178). This is a single-byte read, so RD_GOT and RD_BYTE hold it; EOT_GOT and EOT_BYTE keep it (R39, log 12). -/
def awaitEotDeliver (b : Byte) (s : State) : State :=
  { s.readGot b with
    eotOk := decide (b = Config.eot), eotGot := true, eotByte := b, engine := .rDecoding }

/-- R_AWAIT_EOT, timeout (R178, R39). -/
def awaitEotTimeout (s : State) : State :=
  { s.readTimedOut with eotOk := false, eotGot := false, engine := .rDecoding }

/-- The received frame is kept for the CALLER (R184). -/
def State.keepFrame (s : State) : State :=
  { s with bufLen := s.expN, status := { s.status with frameAvail := true } }

/-- ERR.EOT_MISSING ← 1 where the EOT did not come (R182, R183). -/
def State.noteEot (s : State) : State :=
  if s.eotOk then s else { s with err := { s.err with eotMissing := true } }

/-- R_DECODING (R179): the completion table of R182, and what R184 keeps. -/
def decodingStep (s : State) : State :=
  let t := (s.noteRead (s.bufWritten s.expN.toNat)).noteEot
  match decResp (s.bufBytes s.expN.toNat) with
  | .ok v =>
    let t := (t.writeResp v).keepFrame
    if s.eotOk then t.finish .response .none 0 0
    else t.raise { code := .missingTerminator, info0 := if s.eotGot then s.eotByte else 0,
                   info1 := flagByte s.eotGot }
  | .error e =>
    if e.code = .checksumMismatch ∧ s.ctrl.lenient then t.keepFrame.raise e
    else t.raise e

end Sys2Proof.Machine
end

