-- ==== Sys2Proof/Machine/Wire.lean ====
section
/-! DEFINITION. The wire control bytes as instructions (R89): what the ENGINE does with a byte its deliver step takes off RX_Q (R70). Every byte value goes through `deliver`; the six control bytes have a meaning each (log 13). -/

namespace Sys2Proof.Machine

/-- The transition for "received b" (R70), by STATE (R40): the rules R152, R153, R155, R156, R172, R174, R178. Where no read is pending (R41) the byte is not taken: it stays first in RX_Q (R65, R217). -/
def deliver (b : Byte) (s : State) : State :=
  match s.engine with
  | .sAwaitAck => awaitAckDeliver b s
  | .sAwaitPostAck => awaitPostAckDeliver b s
  | .rAwaitEnq => awaitEnqDeliver b s
  | .rReading => readingDeliver b s
  | .rAwaitEot => awaitEotDeliver b s
  | .idle | .sSending | .sCloseSent | .sCloseRejected | .rAccepting | .rVerifying
  | .rDecoding => { s with rxQ := b :: s.rxQ }

/-- ENQ, wire byte 0x05 (R89): as the terminal's opening byte in R_AWAIT_ENQ it is answered with the first ACK (R172). -/
def execEnq (s : State) : Host.Outcome State Fault Refusal := .next (deliver Config.enq s)

/-- ACK, wire byte 0x06 (R89): the terminal's answer to the ENQ (R152) and to the frame (R155). -/
def execAck (s : State) : Host.Outcome State Fault Refusal := .next (deliver Config.ack s)

/-- NAK, wire byte 0x15 (R89): never a value of its own; like any byte that is not ACK it ends a SEND (R153, R156). -/
def execNak (s : State) : Host.Outcome State Fault Refusal := .next (deliver Config.nak s)

/-- EOT, wire byte 0x04 (R89): the terminator RECEIVE waits for (R178). -/
def execEot (s : State) : Host.Outcome State Fault Refusal := .next (deliver Config.eot s)

/-- STX, wire byte 0x02 (R89): stored like every frame byte; the framing check looks for it at frame byte 0 (R174, R175). -/
def execStx (s : State) : Host.Outcome State Fault Refusal := .next (deliver Config.stx s)

/-- ETX, wire byte 0x03 (R89): stored like every frame byte; the framing check looks for it at frame byte len-2 (R174, R175). -/
def execEtx (s : State) : Host.Outcome State Fault Refusal := .next (deliver Config.etx s)

/-- The transition for "timed out" (R71), by STATE: the rules R153, R156, R172, R176, R178. No other state has a pending read. -/
def timeoutStep (s : State) : State :=
  match s.engine with
  | .sAwaitAck => awaitAckTimeout s
  | .sAwaitPostAck => awaitPostAckTimeout s
  | .rAwaitEnq => awaitEnqTimeout s
  | .rReading => readingTimeout s
  | .rAwaitEot => awaitEotTimeout s
  | .idle | .sSending | .sCloseSent | .sCloseRejected | .rAccepting | .rVerifying
  | .rDecoding => s

/-- The ENGINE's step in a state that waits for nothing (R159, R185). IDLE takes no step (R40). -/
def internalStep (s : State) : State :=
  match s.engine with
  | .sSending => sendingStep s
  | .sCloseSent => closeSentStep s
  | .sCloseRejected => closeRejectedStep s
  | .rAccepting => acceptingStep s
  | .rVerifying => verifyingStep s
  | .rDecoding => decodingStep s
  | .idle | .sAwaitAck | .sAwaitPostAck | .rAwaitEnq | .rReading | .rAwaitEot => s

end Sys2Proof.Machine
end

