-- ==== Sys2Proof/Machine/Dispatch.lean ====
section
/-! DEFINITION. One arm per instruction, each a direct call of its meaning. -/

namespace Sys2Proof.Machine

def exec (i : Instr) (s : State) : Host.Outcome State Fault Refusal :=
  match i with
  -- the CMD8 command words (R86)
  | .lrc => Sys2Proof.Machine.execLrc s
  | .lrcCheck => Sys2Proof.Machine.execLrcCheck s
  | .encodeAsk => Sys2Proof.Machine.execEncodeAsk s
  | .decodeAsk => Sys2Proof.Machine.execDecodeAsk s
  | .decodeResponse => Sys2Proof.Machine.execDecodeResponse s
  | .encodeResponse => Sys2Proof.Machine.execEncodeResponse s
  | .send => Sys2Proof.Machine.execSend s
  | .receive => Sys2Proof.Machine.execReceive s
  -- the WIRE8 control bytes (R89)
  | .enq => Sys2Proof.Machine.execEnq s
  | .ack => Sys2Proof.Machine.execAck s
  | .nak => Sys2Proof.Machine.execNak s
  | .eot => Sys2Proof.Machine.execEot s
  | .stx => Sys2Proof.Machine.execStx s
  | .etx => Sys2Proof.Machine.execEtx s

end Sys2Proof.Machine
end

