-- ==== Sys2Proof/Machine/Caller.lean ====
section
/-! DEFINITION. The CALLER: what its reads and writes do (R22, R23, R45), and the expansion of the pseudo-instructions of its programs (R99). -/

namespace Sys2Proof.Machine

/-- The number of elements of a byte-array register; BUF has BUF_CAP (R21, R33). -/
def State.arrayLength (s : State) (r : Reg) : Nat :=
  match r.shape with
  | .array n => n
  | .buffer => s.params.bufCap
  | .numeric _ => 0
  | .timeout => 0

/-- A write of `v` to a writable numeric or TimeoutVal register: reduced mod 2^W, but a TimeoutVal is stored unchanged (R22) and BUF_LEN stores `min(v mod 2^16, BUF_CAP)` (R32). CMD, the read-only registers and the arrays are not stored to this way. -/
def State.storeReg (s : State) (r : Reg) (v : Nat) : State :=
  match r with
  | .ctrl => { s with ctrl := Ctrl.ofWord (BitVec.ofNat 8 v) }
  | .timeoutArg => { s with timeoutArg := Slot.of v }
  | .bufLen => { s with bufLen := BitVec.ofNat 16 (min (v % 2 ^ 16) s.params.bufCap) }
  | .askAmtMant => { s with ask := { s.ask with mant := Slot.of (BitVec.ofNat 32 v) } }
  | .askAmtScale => { s with ask := { s.ask with scale := Slot.of (BitVec.ofNat 4 v) } }
  | .askAnswerFlag => { s with ask := { s.ask with answerFlag := Slot.of (BitVec.ofNat 8 v) } }
  | .askPaymentMode => { s with ask := { s.ask with paymentMode := Slot.of (BitVec.ofNat 8 v) } }
  | .askTransactionType =>
    { s with ask := { s.ask with transactionType := Slot.of (BitVec.ofNat 8 v) } }
  | .respResult => { s with resp := { s.resp with result := Slot.of (BitVec.ofNat 4 v) } }
  | .respAmount => { s with resp := { s.resp with amount := Slot.of (BitVec.ofNat 27 v) } }
  | .respPaymentMode =>
    { s with resp := { s.resp with paymentMode := Slot.of (BitVec.ofNat 8 v) } }
  | .respReportLen => { s with resp := { s.resp with reportLen := Slot.of (BitVec.ofNat 6 v) } }
  | .cmd | .status | .err | .errInfo0 | .errInfo1 | .lrcValue => s
  | .buf | .askPos | .askCurrency | .askPrivate | .askDelay | .askAuth | .respPos | .respReport
  | .respCurrency | .respPrivate => s

/-- Element `i` of a byte-array register becomes `b`. -/
def ByteReg.put {n : Nat} (x : ByteReg n) (i : Nat) (b : Byte) : ByteReg n :=
  x.setIfInBounds i (Slot.of b)

/-- A write of `b` to element `i` of a byte-array register (R22). -/
def State.storeElem (s : State) (r : Reg) (i : Nat) (b : Byte) : State :=
  match r with
  | .buf => { s with buf := s.buf.write i b }
  | .askPos => { s with ask := { s.ask with pos := s.ask.pos.put i b } }
  | .askCurrency => { s with ask := { s.ask with currency := s.ask.currency.put i b } }
  | .askPrivate => { s with ask := { s.ask with priv := s.ask.priv.put i b } }
  | .askDelay => { s with ask := { s.ask with delay := s.ask.delay.put i b } }
  | .askAuth => { s with ask := { s.ask with auth := s.ask.auth.put i b } }
  | .respPos => { s with resp := { s.resp with pos := s.resp.pos.put i b } }
  | .respReport => { s with resp := { s.resp with report := s.resp.report.put i b } }
  | .respCurrency => { s with resp := { s.resp with currency := s.resp.currency.put i b } }
  | .respPrivate => { s with resp := { s.resp with priv := s.resp.priv.put i b } }
  | .cmd | .ctrl | .status | .err | .errInfo0 | .errInfo1 | .lrcValue | .timeoutArg | .bufLen
  | .askAmtMant | .askAmtScale | .askAnswerFlag | .askPaymentMode | .askTransactionType
  | .respResult | .respAmount | .respPaymentMode | .respReportLen => s

/-- A CALLER write to a whole register other than CMD (R22, R23, R45): to an unmapped number or a read-only register it has no effect; with BUSY = 1 it is refused. -/
def State.callerWrite (s : State) (reg v : Nat) : State :=
  match Reg.ofNumber reg with
  | none => s
  | some r =>
    if r.rights = .readOnly then s
    else if s.status.busy then s.busyWrite
    else s.storeReg r v

/-- A CALLER write to an element of an array register (R22, R23, R45): beyond the array's length it has no effect (log 11); with BUSY = 1 it is refused. R98 writes a byte here and R22 reduces only numeric registers; a value above 0xFF is reduced mod 2^8, a DESIGN CHOICE (log 29). -/
def State.callerWriteElem (s : State) (reg i v : Nat) : State :=
  match Reg.ofNumber reg with
  | none => s
  | some r =>
    if s.arrayLength r ≤ i then s
    else if s.status.busy then s.busyWrite
    else s.storeElem r i (BitVec.ofNat 8 v)

/-- The value a whole register returns while BUSY = 0 (R22, R24 to R37). A read of CMD returns 0. An array is not read this way. -/
def State.regValue (s : State) (r : Reg) : Nat :=
  match r with
  | .cmd => 0
  | .ctrl => s.ctrl.word.toNat
  | .status => s.status.word.toNat
  | .err => s.err.word.toNat
  | .errInfo0 => s.errInfo0.toNat
  | .errInfo1 => s.errInfo1.toNat
  | .lrcValue => s.lrcValue.toNat
  | .timeoutArg => s.timeoutAt r.number s.timeoutArg
  | .bufLen => s.bufLen.toNat
  | .askAmtMant => (s.bitsAt r.number 0 s.ask.mant).toNat
  | .askAmtScale => (s.bitsAt r.number 0 s.ask.scale).toNat
  | .askAnswerFlag => (s.bitsAt r.number 0 s.ask.answerFlag).toNat
  | .askPaymentMode => (s.bitsAt r.number 0 s.ask.paymentMode).toNat
  | .askTransactionType => (s.bitsAt r.number 0 s.ask.transactionType).toNat
  | .respResult => (s.bitsAt r.number 0 s.resp.result).toNat
  | .respAmount => (s.bitsAt r.number 0 s.resp.amount).toNat
  | .respPaymentMode => (s.bitsAt r.number 0 s.resp.paymentMode).toNat
  | .respReportLen => (s.bitsAt r.number 0 s.resp.reportLen).toNat
  | .buf | .askPos | .askCurrency | .askPrivate | .askDelay | .askAuth | .respPos | .respReport
  | .respCurrency | .respPrivate => 0

/-- The register is not in the state "unwritten" (R43); only the registers R231 calls unwritten can be. -/
def State.regWritten (s : State) (r : Reg) : Bool :=
  match r with
  | .timeoutArg => s.timeoutArg.written
  | .askAmtMant => s.ask.mant.written
  | .askAmtScale => s.ask.scale.written
  | .askAnswerFlag => s.ask.answerFlag.written
  | .askPaymentMode => s.ask.paymentMode.written
  | .askTransactionType => s.ask.transactionType.written
  | .respResult => s.resp.result.written
  | .respAmount => s.resp.amount.written
  | .respPaymentMode => s.resp.paymentMode.written
  | .respReportLen => s.resp.reportLen.written
  | .cmd | .ctrl | .status | .err | .errInfo0 | .errInfo1 | .lrcValue | .bufLen => true
  | .buf | .askPos | .askCurrency | .askPrivate | .askDelay | .askAuth | .respPos | .respReport
  | .respCurrency | .respPrivate => true

/-- Element `i` of a byte-array register. -/
def ByteReg.slot {n : Nat} (x : ByteReg n) (i : Nat) : Slot Byte :=
  x.toList.getD i (Slot.unwrittenBits 8)

/-- Element `i` of an array register: the byte held and whether it has been written. -/
def State.elemSlot (s : State) (r : Reg) (i : Nat) : Slot Byte :=
  match r with
  | .buf => match s.buf.read i with
    | some b => Slot.of b
    | none => Slot.unwrittenBits 8
  | .askPos => s.ask.pos.slot i
  | .askCurrency => s.ask.currency.slot i
  | .askPrivate => s.ask.priv.slot i
  | .askDelay => s.ask.delay.slot i
  | .askAuth => s.ask.auth.slot i
  | .respPos => s.resp.pos.slot i
  | .respReport => s.resp.report.slot i
  | .respCurrency => s.resp.currency.slot i
  | .respPrivate => s.resp.priv.slot i
  | .cmd | .ctrl | .status | .err | .errInfo0 | .errInfo1 | .lrcValue | .timeoutArg | .bufLen
  | .askAmtMant | .askAmtScale | .askAnswerFlag | .askPaymentMode | .askTransactionType
  | .respResult | .respAmount | .respPaymentMode | .respReportLen => Slot.unwrittenBits 8

/-- Any value a register of this shape can return (R45). -/
def State.anyValue (s : State) (r : Reg) (i : Nat) : Nat :=
  match r.shape with
  | .numeric w => s.drawn r.number i % 2 ^ w
  | .timeout => s.drawn r.number i
  | .array _ => s.drawn r.number i % 2 ^ 8
  | .buffer => s.drawn r.number i % 2 ^ 8

/-- A CALLER read of a whole register (R22, R23, R43, R45). The value goes to the CALLER; nothing in PEHE changes (R76). While BUSY = 1 every mapped register but STATUS returns any value, which is no fault (R216). -/
def State.callerRead (s : State) (reg : Nat) : State :=
  match Reg.ofNumber reg with
  | none => { s with rdata := 0 }
  | some r =>
    if s.status.busy ∧ r ≠ .status then { s with rdata := s.anyValue r 0, draws := s.draws + 1 }
    else { s.noteRead (s.regWritten r) with rdata := s.regValue r }

/-- A CALLER read of an element of an array register; at or beyond the array's length it reads 0 (R23, log 10). -/
def State.callerReadElem (s : State) (reg i : Nat) : State :=
  match Reg.ofNumber reg with
  | none => { s with rdata := 0 }
  | some r =>
    if s.arrayLength r ≤ i then { s with rdata := 0 }
    else if s.status.busy then { s with rdata := s.anyValue r i, draws := s.draws + 1 }
    else { s.noteRead (s.elemSlot r i).written with
           rdata := (s.bitsAt r.number i (s.elemSlot r i)).toNat }

/-- The writes of a string to an array register, one element each (R99). -/
def writeElems (r : Reg) (s : List Byte) : List Stmt :=
  s.zipIdx.map fun p => .op (.writeElem r.number p.2 p.1.toNat)

/-- One write to a whole register. -/
def writeOp (r : Reg) (v : Nat) : Stmt := .op (.write r.number v)

/-- `WAIT` with its fresh label: read STATUS until BUSY = 0 (R99). -/
def waitStmts (w : Nat) : List Stmt := [.label w, .jeq Reg.status.number (some .busy) 1 w]

/-- `CMD <mnemonic>`: a write of the command's byte to CMD (R98). -/
def cmdStmt (i : Instr) : Stmt := writeOp .cmd i.byte.toNat

/-- The expansions of R99; `w` is the fresh label of a WAIT. -/
def Pseudo.expand (w : Nat) : Pseudo → List Stmt
  | .writeString reg s => s.zipIdx.map fun p => .op (.writeElem reg p.2 p.1.toNat)
  | .loadBuf s => writeElems .buf s ++ [writeOp .bufLen s.length]
  | .setAsk pos mant scale flag mode type cur priv delay auth =>
    writeElems .askPos pos ++ [writeOp .askAmtMant mant, writeOp .askAmtScale scale,
      writeOp .askAnswerFlag flag, writeOp .askPaymentMode mode,
      writeOp .askTransactionType type] ++
      writeElems .askCurrency cur ++ writeElems .askPrivate priv ++ writeElems .askDelay delay ++
      writeElems .askAuth auth
  | .wait => waitStmts w
  | .run i => cmdStmt i :: waitStmts w

/-- The label a statement mentions. -/
def Stmt.labelUsed : Stmt → Nat
  | .op _ => 0
  | .label l => l
  | .jmp l => l
  | .jeq _ _ _ l => l
  | .jne _ _ _ l => l
  | .halt => 0

/-- A label no statement of the text mentions (R99: "with a fresh label"). -/
def freshLabel : List Line → Nat
  | [] => 1
  | .stmt s :: ls => max (s.labelUsed + 1) (freshLabel ls)
  | .pseudo _ :: ls => freshLabel ls

/-- Expands each pseudo-instruction in place, each with the next fresh label. -/
def assembleFrom (fresh : Nat) : List Line → List Stmt
  | [] => []
  | .stmt s :: ls => s :: assembleFrom fresh ls
  | .pseudo p :: ls => p.expand fresh ++ assembleFrom (fresh + 1) ls

/-- The statements of a CALLER program's text (R98, R99). -/
def assemble (ls : List Line) : List Stmt := assembleFrom (freshLabel ls) ls

end Sys2Proof.Machine
end

