-- ==== Sys2Proof/Machine/Fetch.lean ====
section
/-! DEFINITION. Whose turn it is, and what the turn brings: an instruction to run, a finished step, or a refusal (R5, R211). -/

namespace Sys2Proof.Machine

/-- What a turn brings. -/
inductive Fetched where
  /-- the turn fetched this instruction; the state is the one it runs in -/
  | instr (i : Instr) (s : State)
  /-- the turn was a whole step of its own -/
  | done (s : State)
  /-- the turn has no meaning (R18) -/
  | refused (r : Refusal)

/-- A CALLER access (R22). A write to CMD fetches a command: the byte is the value mod 2^8 (R22); an illegal byte is accepted and finishes with ILLEGAL_COMMAND (R87). -/
def accessTurn (a : Access) (s : State) : Fetched :=
  if a.wellFormed then
    match a with
    | .write reg v =>
      if reg = Reg.cmd.number then
        match decode .cmd8 [BitVec.ofNat 8 v] with
        | .ok (i, _) => .instr i s
        | .error _ => .done (s.illegalCommand (BitVec.ofNat 8 v))
      else .done (s.callerWrite reg v)
    | .writeElem reg i v => .done (s.callerWriteElem reg i v)
    | .read reg => .done (s.callerRead reg)
    | .readElem reg i => .done (s.callerReadElem reg i)
  else .refused .noSuchAccess

/-- A jump to a label of the CALLER's program (R98). -/
def State.jump (s : State) (l : Nat) : State :=
  { s with callerPc := s.program.idxOf (Stmt.label l) }

/-- The next statement in order. -/
def State.callerNext (s : State) : State := { s with callerPc := s.callerPc + 1 }

/-- JEQ and JNE: read the register, then jump or go on (R98). -/
def State.branch (s : State) (reg : Nat) (f : Option Field) (v l : Nat) (onEqual : Bool) : State :=
  let t := s.callerRead reg
  if decide (Field.select f t.rdata = v) = onEqual then t.jump l else t.callerNext

/-- One statement of the CALLER's program (R98). -/
def stmtTurn (st : Stmt) (s : State) : Fetched :=
  match st with
  | .op a => accessTurn a s.callerNext
  | .label _ => .done s.callerNext
  | .jmp l => if st.wellFormed s.program then .done (s.jump l) else .refused .illFormedStatement
  | .jeq reg f v l =>
    if st.wellFormed s.program then .done (s.branch reg f v l true)
    else .refused .illFormedStatement
  | .jne reg f v l =>
    if st.wellFormed s.program then .done (s.branch reg f v l false)
    else .refused .illFormedStatement
  | .halt => .done s

/-- The CALLER's turn: its next statement; past the program's end it makes no access. -/
def callerTurn (s : State) : Fetched :=
  match s.program[s.callerPc]? with
  | none => .done s
  | some st => stmtTurn st s

/-- The ENGINE's turn (R40, R70) or, in a read-wait state with RX_Q empty, the TIMEOUT agent's (R71). A deliver step takes the head of RX_Q: a control byte is the instruction it stands for (R89), any other byte is delivered as plain data. -/
def engineTurn (s : State) : Fetched :=
  if s.engine.readWait then
    match s.rxQ with
    | [] => .done (timeoutStep s)
    | b :: q =>
      match decode .wire8 [b] with
      | .ok (i, _) => .instr i { s with rxQ := q }
      | .error _ => .done (deliver b { s with rxQ := q })
  else .done (internalStep s)

/-- The turn to come. With nothing scheduled the ENGINE goes on with its command, and when it is IDLE the CALLER goes on with its program (log 6). -/
def State.nextTurn (s : State) : Turn :=
  match s.schedule with
  | t :: _ => t
  | [] => if s.engine = .idle then .caller else .engine

/-- The state once the turn has been taken off the schedule. -/
def State.popTurn (s : State) : State := { s with schedule := s.schedule.tail }

/-- Takes the next turn (R211: one agent a step). -/
def fetch (s : State) : Fetched :=
  match s.nextTurn with
  | .engine => engineTurn s.popTurn
  | .caller => callerTurn s.popTurn
  | .access a => accessTurn a s.popTurn
  | .terminal b => .done { s.popTurn with rxQ := s.rxQ ++ [b] }
  | .reset => .done s.popTurn.hardReset

end Sys2Proof.Machine
end

