-- ==== Sys2Proof/Machine/Step.lean ====
section
/-! DEFINITION. One step of the machine (R18), and where a word is placed for the next step to fetch it. -/

namespace Sys2Proof.Machine

/-- One step (R18, R211): the turn's instruction runs, or the turn was a step of its own. -/
def step (s : State) : Host.Outcome State Fault Refusal :=
  match fetch s with
  | .instr i t => exec i t
  | .done t => .next t
  | .refused r => .refused r

/-- `s` with the word placed where the next step fetches it (log 15). A word is fetched as a command when the CALLER writes it to CMD, so that access becomes the next turn. A word that is only a wire control byte is fetched by a deliver step, so it becomes the head of RX_Q, the ENGINE's turn is next, and where no read is pending the ENGINE is put in S_AWAIT_ACK with BUSY = 1. -/
def State.withFetchWord (s : State) (nbits w : Nat) : State :=
  match decodeTableWord nbits w with
  | some i =>
    match i.format with
    | .cmd8 => { s with schedule := .access (.write Reg.cmd.number w) :: s.schedule }
    | .wire8 =>
      { s with
        rxQ := BitVec.ofNat 8 w :: s.rxQ
        schedule := .engine :: s.schedule
        engine := if s.engine.readWait then s.engine else .sAwaitAck
        status := { s.status with busy := true } }
  | none => { s with schedule := .access (.write Reg.cmd.number w) :: s.schedule }

end Sys2Proof.Machine
end

