-- ==== Sys2Proof/Safety.lean ====
section
/-! DEFINITION. What counts as a safe run: no model fault recorded (R216), the CALLER's preconditions met (R121, R136, R233), and the invariant of PEHE's state that its steps keep. -/

namespace Sys2Proof.Machine

/-- No model fault has been recorded: "Every property of this spec is claimed for runs in which FAULTS stays empty" (R216). -/
def State.faultFree (s : State) : Prop := s.faults = FaultSet.empty

/-- Every register of the RESP block ENCODE_RESPONSE reads is written (R233). -/
def RespBlock.written (r : RespBlock) : Bool :=
  r.pos.written && r.result.written && r.amount.written && r.paymentMode.written &&
    r.reportLen.written && r.currency.written && r.priv.written &&
    (r.reportLen.val.toNat != Config.reportLen || r.report.written)

/-- The registers a command reads have been written (R233). A wire control byte reads none. -/
def State.preparedFor (s : State) : Instr → Bool
  | .lrc | .lrcCheck | .decodeAsk | .decodeResponse => s.bufWritten s.bufLen.toNat
  | .encodeAsk => s.ask.written
  | .send => s.ask.written && s.timeoutArg.written
  | .receive => s.ask.answerFlag.written && s.timeoutArg.written
  | .encodeResponse => s.resp.written
  | .enq | .ack | .nak | .eot | .stx | .etx => true

/-- The digits of a byte-array register's values. -/
def ByteReg.values {n : Nat} (x : ByteReg n) : List Byte := x.toList.map (·.val)

/-- `valid_ask` (R121): the preconditions on a written ASK block, item by item. -/
structure ValidAsk (p : Params) (a : AskBlock) : Prop where
  written : a.written = true
  posDigits : digitsOk a.pos.values = true
  posRange : 1 ≤ parseDec a.pos.values ∧ parseDec a.pos.values ≤ 99
  amount : ∃ c, amountCents a.mant.val.toNat a.scale.val.toNat = .ok c
  currencyDigits : digitsOk a.currency.values = true
  privBlank : a.priv.values = rep Config.privateLen Config.blank
  answerFlag : a.answerFlag.val = p.answerFlagFull ∨ a.answerFlag.val = p.answerFlagLimited

/-- A valid RESP block (R136), written. -/
structure ValidResp (r : RespBlock) : Prop where
  written : r.written = true
  reportLen : r.reportLen.val.toNat = 0 ∨ r.reportLen.val.toNat = Config.reportLen
  result : r.result.val.toNat ≤ 9
  amount : r.amount.val.toNat ≤ Config.respAmountMax
  posDigits : digitsOk r.pos.values = true
  currencyDigits : digitsOk r.currency.values = true

/-- The states of the send phase (R159). -/
def EngineState.sending : EngineState → Bool
  | .sAwaitAck | .sSending | .sAwaitPostAck | .sCloseSent | .sCloseRejected => true
  | .idle | .rAwaitEnq | .rAccepting | .rReading | .rVerifying | .rAwaitEot | .rDecoding => false

/-- The states of the receive phase (R185). -/
def EngineState.receiving : EngineState → Bool
  | .rAwaitEnq | .rAccepting | .rReading | .rVerifying | .rAwaitEot | .rDecoding => true
  | .idle | .sAwaitAck | .sSending | .sAwaitPostAck | .sCloseSent | .sCloseRejected => false

/-- The states in which the expected byte count is known (R173 to R179). -/
def EngineState.sizeKnown : EngineState → Bool
  | .rReading | .rVerifying | .rAwaitEot | .rDecoding => true
  | .idle | .sAwaitAck | .sSending | .sAwaitPostAck | .sCloseSent | .sCloseRejected
  | .rAwaitEnq | .rAccepting => false

/-- The states in which the whole frame has been read and has passed the framing check (R175). -/
def EngineState.frameRead : EngineState → Bool
  | .rVerifying | .rAwaitEot | .rDecoding => true
  | .idle | .sAwaitAck | .sSending | .sAwaitPostAck | .sCloseSent | .sCloseRejected
  | .rAwaitEnq | .rAccepting | .rReading => false

/-- What holds of PEHE's state between any two steps. -/
structure State.Inv (s : State) : Prop where
  /-- R8: the two answer flags differ and BUF holds the longest frame -/
  params : s.params.wellFormed = true
  /-- R60: BUF in its canonical form, every index below BUF_CAP -/
  bufWf : s.buf.wf
  bufWithin : s.buf.within s.params.bufCap
  /-- R32, R60: BUF_LEN ≤ BUF_CAP -/
  bufLen : s.bufLen.toNat ≤ s.params.bufCap
  /-- R206, R207: BUSY = 1 exactly while the ENGINE is not IDLE -/
  busy : s.status.busy = true ↔ s.engine ≠ .idle
  /-- R207: TO_SAVED is 1 exactly while a SEND or RECEIVE is in progress, and then SAVED_TIMEOUT is written -/
  saved : s.toSaved = true ↔ s.engine ≠ .idle
  savedWritten : s.toSaved = true → s.savedTimeout.written = true
  /-- R200: OUTCOME = ERROR exactly when ERR.CODE ≠ NONE -/
  codes : s.status.outcome = .error ↔ s.err.code ≠ .none
  /-- R206: OUTCOME is NONE while a command is in progress -/
  noOutcome : s.engine ≠ .idle → s.status.outcome = .none
  /-- R183: EOT_MISSING only with an error -/
  eotMissing : s.err.eotMissing = true → s.status.outcome = .error
  /-- R203: UNKNOWN_CURRENCY is never raised -/
  noCurrency : s.err.code ≠ .unknownCurrency
  /-- R27: RESP_VALID = 1 says the RESP block holds a Response -/
  respValid : s.status.respValid = true → s.resp.pos.written = true ∧ s.resp.result.written = true ∧
    s.resp.amount.written = true ∧ s.resp.paymentMode.written = true ∧
    s.resp.reportLen.written = true ∧ s.resp.currency.written = true ∧
    s.resp.priv.written = true
  /-- R151, R154: throughout a SEND, BUF holds its 37-byte frame -/
  askFrame : s.engine.sending = true → s.bufLen = 37 ∧ s.bufWritten Config.askFrameLen = true
  /-- R184: throughout a RECEIVE, BUF_LEN and FRAME_AVAIL are 0 -/
  noFrameYet : s.engine.receiving = true → s.bufLen = 0 ∧ s.status.frameAvail = false
  /-- R173: the byte count is 83 or 28 -/
  expN : s.engine.sizeKnown = true →
    s.expN.toNat = Config.respFullFrameLen ∨ s.expN.toNat = Config.respLimitedFrameLen
  /-- R174: while reading, RX_COUNT < EXP_N and the bytes read so far are in BUF -/
  reading : s.engine = .rReading →
    s.rxCount.toNat < s.expN.toNat ∧ s.bufWritten s.rxCount.toNat = true
  /-- R174, R175: after the framing check, the whole frame is in BUF with STX and ETX in place -/
  frameRead : s.engine.frameRead = true →
    s.rxCount = s.expN ∧ s.bufWritten s.expN.toNat = true ∧
    s.buf.read 0 = some Config.stx ∧ s.buf.read (s.expN.toNat - 2) = some Config.etx

/-- `BUF[0:len(bs)]` holds exactly these bytes, all written (R13, R43). -/
def State.holds (s : State) (bs : List Byte) : Prop :=
  ∀ k, k < bs.length → s.buf.read k = bs[k]?

/-- The input of LRC, LRC_CHECK, DECODE_ASK and DECODE_RESPONSE is this sequence, all of it written: `BUF[0:BUF_LEN]` (R32). -/
def State.inputIs (s : State) (f : List Byte) : Prop := s.bufLen.toNat = f.length ∧ s.holds f

/-- The memory `m` is `before` with `f` stored from index 0 (R62): every other byte reads as before (R63). -/
def Memory.storedFrame (before m : Memory) (f : List Byte) : Prop :=
  (∀ k, k < f.length → m.read k = f[k]?) ∧ ∀ k, f.length ≤ k → m.read k = before.read k

/-- STATUS, ERR, ERR_INFO, TO_SAVED and STATE as acceptance leaves them for a command that goes on (R206); all else unchanged. -/
def State.begun (s : State) : State :=
  { s with
    status := { busy := true, respValid := false, frameAvail := false, check := false
                outcome := .none, overrun := s.status.overrun }
    err := { code := .none, eotMissing := false }
    errInfo0 := 0
    errInfo1 := 0
    toSaved := false }

/-- What acceptance and `finish` together leave of a command that runs in the step that accepts it (R206, R207): OUTCOME, ERR and ERR_INFO as given, the other flags cleared but OVERRUN; all else unchanged. -/
def State.completed (s : State) (o : CmdOutcome) (c : ErrCode) (i0 i1 : Byte) : State :=
  { s with
    status := { busy := false, respValid := false, frameAvail := false, check := false
                outcome := o, overrun := s.status.overrun }
    err := { code := c, eotMissing := false }
    errInfo0 := i0
    errInfo1 := i1
    toSaved := false
    engine := .idle }

/-- What `finish` leaves of a SEND or RECEIVE in progress (R207), SAVED_TIMEOUT being written: T_TIMEOUT is restored when TO_SAVED = 1; all else unchanged. -/
def State.ended (s : State) (o : CmdOutcome) (c : ErrCode) (i0 i1 : Byte) : State :=
  { s with
    status := { s.status with outcome := o, busy := false }
    err := { s.err with code := c }
    errInfo0 := i0
    errInfo1 := i1
    tTimeout := if s.toSaved then s.savedTimeout.val else s.tTimeout
    toSaved := false
    engine := .idle }

/-- A model fault F_UNWRITTEN has been recorded in a step that drew (R216); all else unchanged. -/
def State.faulted (s : State) : State :=
  { s with faults := { s.faults with unwritten := true }, draws := s.draws + 1 }

/-- The ENGINE (or TIMEOUT) has the next turn. -/
def State.engineNext (s : State) : State := { s with schedule := .engine :: s.schedule }

/-- Byte `b` is first in RX_Q and the ENGINE has the next turn: a deliver step of `b` is to come. -/
def State.incoming (s : State) (b : Byte) : State := { s.engineNext with rxQ := b :: s.rxQ }

/-- A CALLER reads next with access `a`: the step gives the CALLER the value `v` and changes nothing else. -/
def State.readGives (s : State) (a : Access) (v : Nat) : Prop :=
  step { s with schedule := .access a :: s.schedule } = .next { s with rdata := v }

/-- `t` is `s` but for the register `r` of R21: every other register, element by element, is as it was, and so is all that is no CALLER-writable register. -/
structure State.OnlyChanged (s t : State) (r : Reg) : Prop where
  others : ∀ q : Reg, q ≠ r → t.regValue q = s.regValue q ∧ t.regWritten q = s.regWritten q ∧
    ∀ j, t.elemSlot q j = s.elemSlot q j
  rest : { t with ctrl := s.ctrl, timeoutArg := s.timeoutArg, bufLen := s.bufLen, buf := s.buf,
                  ask := s.ask, resp := s.resp } = s

/-- A SAVED_TIMEOUT that is to be restored has been written (R207; part of `State.Inv`). -/
def State.savedOk (s : State) : Prop := s.toSaved = true → s.savedTimeout.written = true

/-- `k` steps from `s`, stopping at the first refusal: what Host.Core.run does on this machine (`runFor_eq_run`). -/
def runFor : Nat → State → Host.Outcome State Fault Refusal
  | 0, s => .next s
  | k + 1, s =>
    match step s with
    | .next t => runFor k t
    | .fault f => .fault f
    | .refused r => .refused r

/-- Every register of PEHE has its value of R231; "unwritten" registers are unwritten. -/
structure State.RegistersReset (t : State) : Prop where
  cmd : t.regValue .cmd = 0
  ctrl : t.ctrl.word = 0x00
  status : t.status.word = 0x00
  err : t.err.word = 0x00
  errInfo : t.errInfo0 = 0x00 ∧ t.errInfo1 = 0x00
  lrcValue : t.lrcValue = 0x00
  timeoutArg : t.timeoutArg.written = false
  bufLen : t.bufLen = 0
  buf : ∀ k, t.buf.read k = none
  ask : (∀ x ∈ t.ask.pos.toList ++ t.ask.currency.toList ++ t.ask.priv.toList ++
          t.ask.delay.toList ++ t.ask.auth.toList, x.written = false) ∧
        t.ask.mant.written = false ∧ t.ask.scale.written = false ∧
        t.ask.answerFlag.written = false ∧ t.ask.paymentMode.written = false ∧
        t.ask.transactionType.written = false
  resp : (∀ x ∈ t.resp.pos.toList ++ t.resp.report.toList ++ t.resp.currency.toList ++
          t.resp.priv.toList, x.written = false) ∧
        t.resp.result.written = false ∧ t.resp.amount.written = false ∧
        t.resp.paymentMode.written = false ∧ t.resp.reportLen.written = false
  engine : t.engine.code = 0x00
  savedTimeout : t.savedTimeout.written = false
  toSaved : t.toSaved = false
  counts : t.expN = 0 ∧ t.rxCount = 0
  flags : t.rdGot = false ∧ t.eotOk = false ∧ t.eotGot = false
  bytes : t.rdByte = 0x00 ∧ t.eotByte = 0x00

end Sys2Proof.Machine
end

