-- ==== Sys2Proof/Certificates/Slice0/Obligations.lean ====
section
/-! DEFINITION. The statements for the provers. Each docstring names the rules of spec/ it formalises. `s.savedOk` is part of `State.Inv`: it rules out states no run reaches, in which a timeout is to be restored that was never saved. -/

open Sys2Proof Sys2Proof.Machine

/-! ## Encodings -/

/-- R85, R86, R89: the decoder gives each instruction back from its own word and leaves what follows. -/
def Obligations.DecodeOfEncodeGivesTheInstruction : Prop :=
  ∀ (i : Instr) (rest : List Byte), decode i.format (encode i ++ rest) = .ok (i, rest)

/-- R85, R86, R89: a word that decodes is the word of the instruction it decodes to, in that instruction's format; so each word has one meaning in its format. -/
def Obligations.DecodedWordIsItsEncoding : Prop :=
  ∀ (f : Format) (bytes rest : List Byte) (i : Instr),
    decode f bytes = .ok (i, rest) → i.format = f ∧ bytes = encode i ++ rest

/-- R86, R89: the fourteen words of the table, written out bit by bit. -/
def Obligations.TableWordsDecodeAsTheTableSays : Prop :=
  decode .cmd8 [0b00000001#8] = .ok (.lrc, []) ∧
  decode .cmd8 [0b00000010#8] = .ok (.lrcCheck, []) ∧
  decode .cmd8 [0b00000011#8] = .ok (.encodeAsk, []) ∧
  decode .cmd8 [0b00000100#8] = .ok (.decodeAsk, []) ∧
  decode .cmd8 [0b00000101#8] = .ok (.decodeResponse, []) ∧
  decode .cmd8 [0b00000110#8] = .ok (.encodeResponse, []) ∧
  decode .cmd8 [0b00000111#8] = .ok (.send, []) ∧
  decode .cmd8 [0b00001000#8] = .ok (.receive, []) ∧
  decode .wire8 [0b00000101#8] = .ok (.enq, []) ∧
  decode .wire8 [0b00000110#8] = .ok (.ack, []) ∧
  decode .wire8 [0b00010101#8] = .ok (.nak, []) ∧
  decode .wire8 [0b00000100#8] = .ok (.eot, []) ∧
  decode .wire8 [0b00000010#8] = .ok (.stx, []) ∧
  decode .wire8 [0b00000011#8] = .ok (.etx, [])

/-- R87, R206: a CMD word with OPC 0x0 or 0x9 to 0xF, or with RSV not 0, written with BUSY = 0, is accepted and finishes at once with ILLEGAL_COMMAND(cmd, 0); nothing changes but what acceptance and `finish` always change. -/
def Obligations.IllegalCommandWordFinishesAtOnce : Prop :=
  ∀ (s : State) (c : Byte), s.status.busy = false →
    ((c.extractLsb' 0 4).toNat = 0 ∨ 9 ≤ (c.extractLsb' 0 4).toNat ∨ c.extractLsb' 4 4 ≠ 0#4) →
    step { s with schedule := .access (.write 0x00 c.toNat) :: s.schedule } =
      .next (s.completed .error .illegalCommand c 0)

/-! ## The step -/

/-- R206, R98: a step in which a CALLER writes a command's byte to CMD, directly or by the next statement of its program, is exec of the command, in the state with that turn taken (and the program's position moved on). -/
def Obligations.StepRunsTheWrittenCommand : Prop :=
  (∀ (s : State) (v : Nat) (i : Instr) (later : List Turn),
    s.schedule = .access (.write 0x00 v) :: later →
    decode .cmd8 [BitVec.ofNat 8 v] = .ok (i, []) →
    step s = exec i { s with schedule := later }) ∧
  (∀ (s : State) (v : Nat) (i : Instr) (later : List Turn),
    s.schedule = .caller :: later →
    s.program[s.callerPc]? = some (.op (.write 0x00 v)) →
    decode .cmd8 [BitVec.ofNat 8 v] = .ok (i, []) →
    step s = exec i { s with schedule := later, callerPc := s.callerPc + 1 })

/-- R70, R89 (a wire byte as an instruction is log 13; that the ENGINE has the turn when nothing is scheduled is the model's choice, log 6): an ENGINE turn in a read-wait state whose RX_Q has a control byte at its head is exec of that byte, in the state with the turn and the byte taken; the same with nothing scheduled. -/
def Obligations.StepRunsTheDeliveredControlByte : Prop :=
  ∀ (s : State) (i : Instr) (b : Byte) (q : List Byte) (later : List Turn),
    (s.schedule = .engine :: later ∨ s.schedule = [] ∧ later = []) →
    s.engine.readWait = true → s.rxQ = b :: q → decode .wire8 [b] = .ok (i, []) →
    step s = exec i { s with schedule := later, rxQ := q }

/-- R18, R22, R98, R212, R216 (that a model fault ends no step is the model's choice among R216's two, log 8; the refusals are the model's choice, log 9 and log 17): no step ends in a fault; a step whose access or statement is well formed answers a next state; an access R22 does not have is refused. -/
def Obligations.OnlyIllFormedTurnsAreRefused : Prop :=
  (∀ (s : State) (f : Fault), step s ≠ .fault f) ∧
  (∀ s : State, s.nextTurn.wellFormed = true →
    (s.nextTurn = .caller → ∀ st, s.program[s.callerPc]? = some st →
      st.wellFormed s.program = true) →
    ∃ t, step s = .next t) ∧
  (∀ (s : State) (a : Access), s.nextTurn = .access a → a.wellFormed = false →
    step s = .refused .noSuchAccess)

/-! ## Reset and the invariant -/

/-- R230, R231: a reset puts every register at its reset value, marks the others unwritten, restores the timeout where one is saved, and touches neither stream nor FAULTS; at launch the streams are empty and as given, T_TIMEOUT = T_TIMEOUT_INIT and FAULTS is empty. -/
def Obligations.ResetLeavesTheResetValues : Prop :=
  (∀ (s : State) (later : List Turn), s.schedule = .reset :: later → s.savedOk →
    ∃ t, step s = .next t ∧ t.RegistersReset ∧ t.txLog = s.txLog ∧ t.rxQ = s.rxQ ∧
      t.tTimeout = (if s.toSaved then s.savedTimeout.val else s.tTimeout) ∧
      t.faults = s.faults ∧ t.params = s.params) ∧
  (∀ (p : Params) (q : List Byte), (State.launch p q).RegistersReset ∧
    (State.launch p q).txLog = [] ∧ (State.launch p q).rxQ = q ∧
    (State.launch p q).tTimeout = p.timeoutInit ∧ (State.launch p q).faultFree)

/-- The invariant holds at launch, whatever the open parameters R8 allows. -/
def Obligations.InvariantHoldsAtLaunch : Prop :=
  (∀ (p : Params) (q : List Byte), p.wellFormed = true → (State.launch p q).Inv) ∧
    State.reset.Inv

/-- Every step, of whichever agent, keeps the invariant: BUF's canonical form and bound, BUSY and TO_SAVED exactly while a command is in progress, OUTCOME and ERR.CODE in step, the read counters in their range, the frame in BUF. -/
def Obligations.EveryStepKeepsTheInvariant : Prop :=
  ∀ s t : State, s.Inv → step s = .next t → t.Inv

/-! ## Checksum -/

/-- R112: LRC over a non-empty input stores its XOR in LRC_VALUE and finishes OK; over an empty one it stores 0x00 and finishes with EMPTY_INPUT; with an unwritten input byte it records F_UNWRITTEN and still completes. Nothing else changes. -/
def Obligations.LrcStoresTheXorOfItsInput : Prop :=
  (∀ (s : State) (f : List Byte), s.status.busy = false → s.inputIs f → f ≠ [] →
    exec .lrc s =
      .next { s.completed .ok .none 0 0 with lrcValue := f.foldl (· ^^^ ·) 0x00 }) ∧
  (∀ s : State, s.status.busy = false → s.bufLen = 0 →
    exec .lrc s = .next { s.completed .error .emptyInput 0 0 with lrcValue := 0x00 }) ∧
  (∀ s : State, s.status.busy = false → (∃ k, k < s.bufLen.toNat ∧ s.buf.read k = none) →
    ∃ v, exec .lrc s = .next { s.faulted.completed .ok .none 0 0 with lrcValue := v })

/-- R111, R114: LRC_CHECK sets CHECK to whether the frame's last byte is the XOR of its bytes 1 to len-2, gives both checksums when it is not and the frame has three bytes or more, always finishes OK, and changes nothing else. -/
def Obligations.LrcCheckReportsTheCheck : Prop :=
  ∀ (s : State) (f : List Byte), s.status.busy = false → s.inputIs f →
    (∀ (p : List Byte) (a c : Byte), f = a :: (p ++ [c]) → p ≠ [] →
      (p.foldl (· ^^^ ·) 0 = c → exec .lrcCheck s =
        .next { s.completed .ok .none 0 0 with
          status := { (s.completed .ok .none 0 0).status with check := true } }) ∧
      (p.foldl (· ^^^ ·) 0 ≠ c →
        exec .lrcCheck s = .next (s.completed .ok .none (p.foldl (· ^^^ ·) 0) c))) ∧
    (f.length < 3 → exec .lrcCheck s = .next (s.completed .ok .none 0 0))

/-- R113: a single-bit flip in the checked range or in the last byte makes lrc_ok false; a change of byte 0 never changes it; two flips of one bit in two bytes of the range leave it true. -/
def Obligations.ChecksumDetectsSingleBitFlips : Prop :=
  ∀ (f : List Byte) (j : Nat), j < 8 → lrcOk f = true →
    (∀ k, 1 ≤ k → k < f.length → lrcOk (f.modify k (· ^^^ BitVec.twoPow 8 j)) = false) ∧
    (∀ k l, 1 ≤ k → k < l → l < f.length - 1 →
      lrcOk ((f.modify k (· ^^^ BitVec.twoPow 8 j)).modify l (· ^^^ BitVec.twoPow 8 j)) =
        true) ∧
    (∀ (g : List Byte) (b : Byte), lrcOk (g.set 0 b) = lrcOk g)

/-- R115, R112 (corner case): an accumulator that starts at 0x00 and XORs in one byte at a time computes xor_fold of every non-empty sequence, and the result does not depend on the order of the bytes. -/
def Obligations.AccumulatorComputesTheFold : Prop :=
  (∀ f : List Byte, f ≠ [] → lrc f = some (f.foldl (fun acc b => acc ^^^ b) 0x00)) ∧
  (∀ f g : List Byte, f.Perm g → xorFold f = xorFold g)

/-! ## Codec -/

/-- R16: dec_n writes v below 10^n as n digits that parse back to v, and n digits are dec_n of the number they parse to. -/
def Obligations.DigitsParseBack : Prop :=
  (∀ n v : Nat, v < 10 ^ n → parseDec (decDigits n v) = v ∧
    digitsOk (decDigits n v) = true ∧ (decDigits n v).length = n) ∧
  (∀ f : List Byte, digitsOk f = true →
    parseDec f < 10 ^ f.length ∧ decDigits f.length (parseDec f) = f)

/-- R122: amount_cents answers c exactly when m * 10^(-s) is c cents with 1 ≤ c ≤ 9999999, and raises AMOUNT_OUT_OF_RANGE(0, 0) otherwise. -/
def Obligations.AmountInCentsIsExact : Prop :=
  ∀ m s : Nat,
    (∀ c, amountCents m s = .ok c ↔ c * 10 ^ s = m * 100 ∧ 1 ≤ c ∧ c ≤ 9999999) ∧
    (∀ e, amountCents m s = .error e → e = ⟨.amountOutOfRange, 0, 0⟩)

/-- R123: a frame is three bytes longer than its payload, strips to it and passes lrc_ok; its bytes are STX, the payload, ETX and the XOR of payload and ETX. -/
def Obligations.FrameStripsToItsPayload : Prop :=
  ∀ p : List Byte, strip (frame p) = p ∧ lrcOk (frame p) = true ∧
    (frame p).length = p.length + 3 ∧
    frame p = 0x02#8 :: (p ++ [0x03#8, (p ++ [0x03#8]).foldl (· ^^^ ·) 0])

/-- R92, R124: ENCODE_ASK on a written ASK block whose amount is c cents leaves the 37-byte frame in BUF, every field at its frame offset, BUF_LEN = 37 and OUTCOME OK; no other byte of BUF and nothing else changes. -/
def Obligations.EncodeAskLaysOutTheFrame : Prop :=
  ∀ (s : State) (c : Nat), s.status.busy = false → s.ask.written = true →
    amountCents s.ask.mant.val.toNat s.ask.scale.val.toNat = .ok c →
    ∃ m : Memory,
      exec .encodeAsk s = .next { s.completed .ok .none 0 0 with buf := m, bufLen := 37 } ∧
      m.read 0 = some 0x02 ∧
      (∀ k, k < 2 → m.read (1 + k) = s.ask.pos.values[k]?) ∧
      (∀ k, k < 8 → m.read (3 + k) = some (BitVec.ofNat 8 (0x30 + c / 10 ^ (7 - k) % 10))) ∧
      m.read 11 = some s.ask.answerFlag.val ∧
      m.read 12 = some s.ask.paymentMode.val ∧
      m.read 13 = some s.ask.transactionType.val ∧
      (∀ k, k < 3 → m.read (14 + k) = s.ask.currency.values[k]?) ∧
      (∀ k, k < 10 → m.read (17 + k) = s.ask.priv.values[k]?) ∧
      (∀ k, k < 4 → m.read (27 + k) = s.ask.delay.values[k]?) ∧
      (∀ k, k < 4 → m.read (31 + k) = s.ask.auth.values[k]?) ∧
      m.read 35 = some 0x03 ∧
      m.read 36 = some ((List.range 35).foldl (fun x k => x ^^^ (m.read (1 + k)).getD 0) 0) ∧
      (∀ k, 37 ≤ k → m.read k = s.buf.read k)

/-- R122, R124, R138, R212, R216 (that any unwritten ASK register counts as read, where the encoding fails too, is log 24, DEDUCED): where the amount is out of range ENCODE_ASK finishes with AMOUNT_OUT_OF_RANGE(0, 0) and writes none of its outputs; where an ASK register is unwritten it records F_UNWRITTEN and goes on. -/
def Obligations.EncodeAskRefusesBadAmounts : Prop :=
  (∀ (s : State) (e : Failure), s.status.busy = false → s.ask.written = true →
    amountCents s.ask.mant.val.toNat s.ask.scale.val.toNat = .error e →
    exec .encodeAsk s = .next (s.completed .error .amountOutOfRange 0 0)) ∧
  (∀ s : State, s.status.busy = false → s.ask.written = false →
    ∃ t, exec .encodeAsk s = .next t ∧ t.faults.unwritten = true ∧ t.engine = .idle ∧
      t.status.busy = false ∧ (t.status.outcome = .ok ∨ t.status.outcome = .error) ∧
      t.txLog = s.txLog ∧ t.rxQ = s.rxQ ∧ t.ask = s.ask ∧ t.resp = s.resp ∧
      ∀ k, 37 ≤ k → t.buf.read k = s.buf.read k)

/-- R126, R128: DECODE_ASK of a 37-byte frame whose checksum holds and whose pos, amount and currency are digits writes every ASK register from its payload offset, the amount as (cents, 2) and private blank, and changes nothing else but OUTCOME and ERR. -/
def Obligations.DecodeAskWritesTheBlock : Prop :=
  ∀ (s : State) (p : List Byte) (a b c : Byte), s.status.busy = false →
    s.inputIs (a :: (p ++ [b, c])) → p.length = 34 → (p ++ [b]).foldl (· ^^^ ·) 0 = c →
    digitsOk (slice p 0 2) = true → digitsOk (slice p 2 10) = true →
    digitsOk (slice p 13 16) = true →
    ∃ k : AskBlock, exec .decodeAsk s = .next { s.completed .ok .none 0 0 with ask := k } ∧
      k.written = true ∧ k.pos.values = slice p 0 2 ∧
      k.mant.val.toNat = parseDec (slice p 2 10) ∧ k.scale.val = 2 ∧
      some k.answerFlag.val = p[10]? ∧ some k.paymentMode.val = p[11]? ∧
      some k.transactionType.val = p[12]? ∧ k.currency.values = slice p 13 16 ∧
      k.priv.values = List.replicate 10 0x20 ∧ k.delay.values = slice p 26 30 ∧
      k.auth.values = slice p 30 34

/-- R126, R127, R210: DECODE_ASK reports a bad checksum first, then a payload length other than 34, then the non-digit byte at the lowest offset of pos, amount and currency; each leaves the ASK block and all else as it was. -/
def Obligations.DecodeAskReportsTheFirstError : Prop :=
  ∀ (s : State) (f : List Byte), s.status.busy = false → s.inputIs f →
    (f.length < 3 → exec .decodeAsk s = .next (s.completed .error .checksumMismatch 0 0)) ∧
    (∀ (p : List Byte) (a b c : Byte), f = a :: (p ++ [b, c]) →
      ((p ++ [b]).foldl (· ^^^ ·) 0 ≠ c →
        exec .decodeAsk s = .next (s.completed .error .checksumMismatch
          ((p ++ [b]).foldl (· ^^^ ·) 0) c)) ∧
      ((p ++ [b]).foldl (· ^^^ ·) 0 = c → p.length ≠ 34 →
        exec .decodeAsk s = .next (s.completed .error .lengthMismatch
          (BitVec.ofNat 8 (p.length % 256)) (BitVec.ofNat 8 (p.length / 256)))) ∧
      (∀ (k : Nat) (x : Byte), (p ++ [b]).foldl (· ^^^ ·) 0 = c → p.length = 34 →
        p[k]? = some x → isDigit x = false → (k < 10 ∨ 13 ≤ k ∧ k < 16) →
        (∀ j y, j < k → (j < 10 ∨ 13 ≤ j ∧ j < 16) → p[j]? = some y → isDigit y = true) →
        exec .decodeAsk s =
          .next (s.completed .error .fieldFormatError (BitVec.ofNat 8 k) x)))

/-- R129: for every valid Ask, ENCODE_ASK and then DECODE_ASK end OK with every ASK register as before, but that the amount is held as (cents, 2), the same decimal value. -/
def Obligations.EncodedAskDecodesToItself : Prop :=
  ∀ s : State, s.status.busy = false → ValidAsk s.params s.ask →
    ∃ t u c, exec .encodeAsk s = .next t ∧ exec .decodeAsk t = .next u ∧
      u.status.outcome = .ok ∧
      amountCents s.ask.mant.val.toNat s.ask.scale.val.toNat = .ok c ∧
      c * 10 ^ s.ask.scale.val.toNat = s.ask.mant.val.toNat * 10 ^ 2 ∧
      u.ask = { s.ask with mant := Slot.of (BitVec.ofNat 32 c), scale := Slot.of 2 } ∧
      u.ask.mant.val.toNat = c

/-- R93, R94, R131: DECODE_RESPONSE of a good frame with an 80-byte or a 25-byte payload writes the RESP block from the payload offsets of that layout, sets RESP_VALID and finishes OK; after a limited decode RESP_REPORT is as before; nothing else changes. -/
def Obligations.DecodeResponseWritesTheBlock : Prop :=
  ∀ (s : State) (p : List Byte) (a b c : Byte) (cur priv : Nat), s.status.busy = false →
    s.inputIs (a :: (p ++ [b, c])) → (p ++ [b]).foldl (· ^^^ ·) 0 = c →
    (p.length = 80 ∧ cur = 67 ∧ priv = 70 ∨ p.length = 25 ∧ cur = 12 ∧ priv = 15) →
    digitsOk (slice p 0 2) = true → digitsOk (slice p 2 3) = true →
    digitsOk (slice p 3 11) = true → digitsOk (slice p cur (cur + 3)) = true →
    ∃ r : RespBlock, exec .decodeResponse s =
        .next { s.completed .ok .none 0 0 with
          resp := r, status := { (s.completed .ok .none 0 0).status with respValid := true } } ∧
      r.written = true ∧ r.pos.values = slice p 0 2 ∧
      some (BitVec.ofNat 8 (0x30 + r.result.val.toNat)) = p[2]? ∧
      r.amount.val.toNat = parseDec (slice p 3 11) ∧ some r.paymentMode.val = p[11]? ∧
      r.currency.values = slice p cur (cur + 3) ∧ r.priv.values = slice p priv (priv + 10) ∧
      (p.length = 80 → r.reportLen.val = 55 ∧ r.report.values = slice p 12 67) ∧
      (p.length = 25 → r.reportLen.val = 0 ∧ r.report = s.resp.report)

/-- R130, R132, R133: DECODE_RESPONSE reports a bad checksum first, then a payload length other than 80 and 25, then the non-digit byte at the lowest offset of pos, result, amount and currency; each leaves the RESP block and all else as it was, RESP_VALID = 0. -/
def Obligations.DecodeResponseReportsTheFirstError : Prop :=
  ∀ (s : State) (f : List Byte), s.status.busy = false → s.inputIs f →
    (f.length < 3 → exec .decodeResponse s = .next (s.completed .error .checksumMismatch 0 0)) ∧
    (∀ (p : List Byte) (a b c : Byte), f = a :: (p ++ [b, c]) →
      ((p ++ [b]).foldl (· ^^^ ·) 0 ≠ c →
        exec .decodeResponse s = .next (s.completed .error .checksumMismatch
          ((p ++ [b]).foldl (· ^^^ ·) 0) c)) ∧
      ((p ++ [b]).foldl (· ^^^ ·) 0 = c → p.length ≠ 80 → p.length ≠ 25 →
        exec .decodeResponse s = .next (s.completed .error .lengthMismatch
          (BitVec.ofNat 8 (p.length % 256)) (BitVec.ofNat 8 (p.length / 256)))) ∧
      (∀ (k cur : Nat) (x : Byte), (p ++ [b]).foldl (· ^^^ ·) 0 = c →
        (p.length = 80 ∧ cur = 67 ∨ p.length = 25 ∧ cur = 12) →
        p[k]? = some x → isDigit x = false → (k < 11 ∨ cur ≤ k ∧ k < cur + 3) →
        (∀ j y, j < k → (j < 11 ∨ cur ≤ j ∧ j < cur + 3) → p[j]? = some y →
          isDigit y = true) →
        exec .decodeResponse s =
          .next (s.completed .error .fieldFormatError (BitVec.ofNat 8 k) x)))

/-- R134, R135: ENCODE_RESPONSE on a written RESP block that passes its three checks leaves the 83-byte or 28-byte frame of the layouts of R93 and R94 in BUF, sets BUF_LEN to its length and finishes OK; no other byte of BUF and nothing else changes. -/
def Obligations.EncodeResponseLaysOutTheFrame : Prop :=
  ∀ (s : State) (rep : List Byte), s.status.busy = false → s.resp.written = true →
    (s.resp.reportLen.val = 55 ∧ rep = s.resp.report.values ∨
      s.resp.reportLen.val = 0 ∧ rep = []) →
    s.resp.result.val.toNat ≤ 9 → s.resp.amount.val.toNat ≤ 99999999 →
    ∃ (m : Memory) (p : List Byte),
      p = s.resp.pos.values ++ [BitVec.ofNat 8 (0x30 + s.resp.result.val.toNat)] ++
        (List.range 8).map (fun k =>
          BitVec.ofNat 8 (0x30 + s.resp.amount.val.toNat / 10 ^ (7 - k) % 10)) ++
        [s.resp.paymentMode.val] ++ rep ++ s.resp.currency.values ++ s.resp.priv.values ∧
      exec .encodeResponse s = .next { s.completed .ok .none 0 0 with
        buf := m, bufLen := BitVec.ofNat 16 (28 + rep.length) } ∧
      p.length = 25 + rep.length ∧
      Memory.storedFrame s.buf m
        (0x02#8 :: (p ++ [0x03#8, (p ++ [0x03#8]).foldl (· ^^^ ·) 0]))

/-- R134, R138, R210: ENCODE_RESPONSE checks RESP_REPORT_LEN, then RESP_RESULT, then RESP_AMOUNT; the first that fails ends it, and BUF and all else stay. -/
def Obligations.EncodeResponseReportsTheFirstError : Prop :=
  ∀ s : State, s.status.busy = false → s.resp.written = true →
    (s.resp.reportLen.val ≠ 55 → s.resp.reportLen.val ≠ 0 →
      exec .encodeResponse s =
        .next (s.completed .error .lengthMismatch (s.resp.reportLen.val.setWidth 8) 0)) ∧
    ((s.resp.reportLen.val = 55 ∨ s.resp.reportLen.val = 0) → 9 < s.resp.result.val.toNat →
      exec .encodeResponse s =
        .next (s.completed .error .fieldFormatError 2 (s.resp.result.val.setWidth 8))) ∧
    ((s.resp.reportLen.val = 55 ∨ s.resp.reportLen.val = 0) → s.resp.result.val.toNat ≤ 9 →
      99999999 < s.resp.amount.val.toNat →
      exec .encodeResponse s = .next (s.completed .error .amountOutOfRange 0 0))

/-- R136: for every valid RESP block, ENCODE_RESPONSE and then DECODE_RESPONSE end OK with RESP_VALID = 1 and every RESP register as before. -/
def Obligations.EncodedResponseDecodesToItself : Prop :=
  ∀ s : State, s.status.busy = false → ValidResp s.resp →
    ∃ t u, exec .encodeResponse s = .next t ∧ exec .decodeResponse t = .next u ∧
      u.status.outcome = .ok ∧ u.status.respValid = true ∧ u.resp = s.resp

/-- R206: a checksum or codec command, with BUSY = 0, completes in the one step that accepts it, whatever the registers hold: BUSY = 0 and STATE = IDLE after it, OUTCOME OK or ERROR, and the transport, the parameters, CTRL, TIMEOUT_ARG and OVERRUN unchanged. -/
def Obligations.ChecksumAndCodecCommandsCompleteAtOnce : Prop :=
  ∀ (i : Instr) (s : State),
    i ∈ [Instr.lrc, .lrcCheck, .encodeAsk, .decodeAsk, .decodeResponse, .encodeResponse] →
    s.status.busy = false →
    ∃ t, exec i s = .next t ∧ t.status.busy = false ∧ t.engine = .idle ∧
      (t.status.outcome = .ok ∨ t.status.outcome = .error) ∧
      t.status.overrun = s.status.overrun ∧ t.status.frameAvail = false ∧
      t.txLog = s.txLog ∧ t.rxQ = s.rxQ ∧ t.tTimeout = s.tTimeout ∧ t.params = s.params ∧
      t.ctrl = s.ctrl ∧ t.timeoutArg = s.timeoutArg

/-! ## Send -/

/-- R151: SEND of a written, encodable Ask leaves its frame in BUF, saves T_TIMEOUT and sets it from TIMEOUT_ARG, writes ENQ and waits in S_AWAIT_ACK; nothing else changes but what acceptance clears. Where the Ask cannot be encoded it finishes with the error, with nothing written and T_TIMEOUT unchanged. -/
def Obligations.SendOpensTheConversation : Prop :=
  ∀ s : State, s.status.busy = false → s.ask.written = true → s.timeoutArg.written = true →
    (∀ f, encAsk s.askVal = .ok f →
      ∃ m : Memory, exec .send s = .next { s.begun with
          buf := m, bufLen := 37, savedTimeout := Slot.of s.tTimeout, toSaved := true,
          tTimeout := s.timeoutArg.val, txLog := s.txLog ++ [0x05], engine := .sAwaitAck } ∧
        f.length = 37 ∧ Memory.storedFrame s.buf m f) ∧
    (∀ e, encAsk s.askVal = .error e →
      exec .send s = .next (s.completed .error e.code e.info0 e.info1))

/-- R152, R153: in S_AWAIT_ACK a delivered ACK leads to S_SENDING; any other byte b ends in INITIALIZATION_FAILED(b, 1) and a timeout in INITIALIZATION_FAILED(0, 0), with nothing written. -/
def Obligations.SendAwaitsTheFirstAck : Prop :=
  ∀ s : State, s.engine = .sAwaitAck → s.savedOk →
    step (s.incoming 0x06) = .next { s with rdGot := true, rdByte := 0x06, engine := .sSending } ∧
    (∀ b : Byte, b ≠ 0x06 → step (s.incoming b) =
      .next { s.ended .error .initializationFailed b 1 with rdGot := true, rdByte := b }) ∧
    (s.rxQ = [] → step s.engineNext =
      .next { s.ended .error .initializationFailed 0 0 with rdGot := false })

/-- R154: S_SENDING writes the frame built at acceptance in one step. -/
def Obligations.SendWritesTheFrame : Prop :=
  ∀ (s : State) (f : List Byte), s.engine = .sSending → f.length = 37 → s.holds f →
    step s.engineNext = .next { s with txLog := s.txLog ++ f, engine := .sAwaitPostAck }

/-- R155, R156: in S_AWAIT_POST_ACK a delivered ACK leads to S_CLOSE_SENT; any other byte and a timeout lead to S_CLOSE_REJECTED. -/
def Obligations.SendAwaitsTheSecondAck : Prop :=
  ∀ s : State, s.engine = .sAwaitPostAck →
    step (s.incoming 0x06) =
      .next { s with rdGot := true, rdByte := 0x06, engine := .sCloseSent } ∧
    (∀ b : Byte, b ≠ 0x06 → step (s.incoming b) =
      .next { s with rdGot := true, rdByte := b, engine := .sCloseRejected }) ∧
    (s.rxQ = [] → step s.engineNext = .next { s with rdGot := false, engine := .sCloseRejected })

/-- R157, R158: the close states write EOT and finish SENT, or REJECTED with the byte read and whether one was read. -/
def Obligations.SendClosesWithEot : Prop :=
  ∀ s : State, s.savedOk →
    (s.engine = .sCloseSent → step s.engineNext =
      .next { s.ended .sent .none 0 0 with txLog := s.txLog ++ [0x04] }) ∧
    (s.engine = .sCloseRejected → step s.engineNext =
      .next { s.ended .rejected .none (if s.rdGot then s.rdByte else 0)
          (if s.rdGot then 1 else 0) with
        txLog := s.txLog ++ [0x04] })

/-- R160, R161, R162, R163 (that an empty schedule gives the ENGINE and TIMEOUT every turn is the model's choice, log 6): a whole SEND in which the ENGINE and TIMEOUT take every turn. Within 5 steps of its acceptance it is IDLE again, with the outcome, ERR_INFO, transmitted bytes and consumed bytes that the terminal's queued bytes determine, and T_TIMEOUT as before. -/
def Obligations.SendConversationRunsToItsEnd : Prop :=
  ∀ (s : State) (f : List Byte), s.status.busy = false → s.ask.written = true →
    s.timeoutArg.written = true → s.schedule = [] → encAsk s.askVal = .ok f →
    ∃ t k u, exec .send s = .next t ∧ k ≤ 5 ∧ runFor k t = .next u ∧
      u.engine = .idle ∧ u.status.busy = false ∧ u.tTimeout = s.tTimeout ∧
      u.faults = s.faults ∧
      match s.rxQ with
      | [] => u.status.outcome = .error ∧ u.err.code = .initializationFailed ∧
          u.errInfo0 = 0 ∧ u.errInfo1 = 0 ∧ u.txLog = s.txLog ++ [0x05] ∧ u.rxQ = []
      | b :: q =>
        if b = 0x06 then
          u.txLog = s.txLog ++ [0x05] ++ f ++ [0x04] ∧ u.err.code = .none ∧
          match q with
          | [] => u.status.outcome = .rejected ∧ u.errInfo0 = 0 ∧ u.errInfo1 = 0 ∧ u.rxQ = []
          | c :: r => u.rxQ = r ∧
            if c = 0x06 then u.status.outcome = .sent ∧ u.errInfo0 = 0 ∧ u.errInfo1 = 0
            else u.status.outcome = .rejected ∧ u.errInfo0 = c ∧ u.errInfo1 = 1
        else u.status.outcome = .error ∧ u.err.code = .initializationFailed ∧
          u.errInfo0 = b ∧ u.errInfo1 = 1 ∧ u.txLog = s.txLog ++ [0x05] ∧ u.rxQ = q

/-! ## Receive -/

/-- R171: RECEIVE clears BUF_LEN and the EOT and count registers, saves T_TIMEOUT and sets it from TIMEOUT_ARG, and waits in R_AWAIT_ENQ; it writes nothing. -/
def Obligations.ReceiveOpensTheConversation : Prop :=
  ∀ s : State, s.status.busy = false → s.timeoutArg.written = true →
    exec .receive s = .next { s.begun with
      bufLen := 0, savedTimeout := Slot.of s.tTimeout, toSaved := true,
      tTimeout := s.timeoutArg.val, eotOk := false, eotGot := false, eotByte := 0, rxCount := 0,
      engine := .rAwaitEnq }

/-- R172, and R39 for RD_GOT and RD_BYTE (log 12): in R_AWAIT_ENQ a delivered ENQ is answered with ACK and leads to R_ACCEPTING; any other byte b ends in NO_ANSWER(b, 1) and a timeout in NO_ANSWER(0, 0), neither an error. -/
def Obligations.ReceiveAwaitsTheEnq : Prop :=
  ∀ s : State, s.engine = .rAwaitEnq → s.savedOk →
    step (s.incoming 0x05) =
      .next { s with rdGot := true, rdByte := 0x05, txLog := s.txLog ++ [0x06],
                     engine := .rAccepting } ∧
    (∀ b : Byte, b ≠ 0x05 → step (s.incoming b) =
      .next { s.ended .noAnswer .none b 1 with rdGot := true, rdByte := b }) ∧
    (s.rxQ = [] → step s.engineNext =
      .next { s.ended .noAnswer .none 0 0 with rdGot := false })

/-- R173: R_ACCEPTING takes the byte count from ASK_ANSWER_FLAG, 83 or 28; any other flag ends in UNRECOGNIZED_ANSWER_FLAG(flag, 0); an unwritten flag is recorded as F_UNWRITTEN. -/
def Obligations.ReceiveChoosesTheByteCount : Prop :=
  ∀ s : State, s.engine = .rAccepting → s.savedOk → s.params.wellFormed = true →
    (s.ask.answerFlag.written = true →
      (s.ask.answerFlag.val = s.params.answerFlagFull → step s.engineNext =
        .next { s with expN := 83, rxCount := 0, engine := .rReading }) ∧
      (s.ask.answerFlag.val = s.params.answerFlagLimited → step s.engineNext =
        .next { s with expN := 28, rxCount := 0, engine := .rReading }) ∧
      (s.ask.answerFlag.val ≠ s.params.answerFlagFull →
        s.ask.answerFlag.val ≠ s.params.answerFlagLimited → step s.engineNext =
        .next (s.ended .error .unrecognizedAnswerFlag s.ask.answerFlag.val 0))) ∧
    (s.ask.answerFlag.written = false →
      ∃ t, step s.engineNext = .next t ∧ t.faults.unwritten = true)

/-- R174: in R_READING a delivered byte that does not complete the read is stored at BUF[RX_COUNT], RX_COUNT goes up by one, and no other byte of BUF and nothing else changes. -/
def Obligations.ReceiveStoresEachByte : Prop :=
  ∀ (s : State) (b : Byte), s.engine = .rReading → s.rxCount.toNat + 1 < s.expN.toNat →
    ∃ m : Memory, step (s.incoming b) =
        .next { s with buf := m, rxCount := BitVec.ofNat 16 (s.rxCount.toNat + 1) } ∧
      m.read s.rxCount.toNat = some b ∧
      ∀ k, k ≠ s.rxCount.toNat → m.read k = s.buf.read k

/-- R174, R175: the byte that completes the read is stored too, and in the same step the framing check looks at the frame's first byte and second-to-last byte: R_VERIFYING where they are STX and ETX, else FRAMING_ERROR with both; nothing is written to the transport. -/
def Obligations.ReceiveChecksTheFraming : Prop :=
  ∀ (s : State) (f : List Byte) (b first last : Byte), s.engine = .rReading → s.savedOk →
    f.length = s.rxCount.toNat → s.holds f → s.rxCount.toNat + 1 = s.expN.toNat →
    2 ≤ f.length → f[0]? = some first → f[f.length - 1]? = some last →
    ∃ m : Memory, Memory.storedFrame s.buf m (f ++ [b]) ∧
      (first = 0x02 ∧ last = 0x03 → step (s.incoming b) =
        .next { s with buf := m, rxCount := s.expN, engine := .rVerifying }) ∧
      (¬ (first = 0x02 ∧ last = 0x03) → step (s.incoming b) =
        .next { s.ended .error .framingError first last with buf := m, rxCount := s.expN })

/-- R176: a timeout in R_READING ends in TRUNCATED_ANSWER with the number of bytes read. -/
def Obligations.ReceiveReportsATruncatedAnswer : Prop :=
  ∀ s : State, s.engine = .rReading → s.savedOk → s.rxQ = [] → step s.engineNext =
    .next (s.ended .error .truncatedAnswer (BitVec.ofNat 8 (s.rxCount.toNat % 256)) 0)

/-- R177, R178, and R39 for RD_GOT and RD_BYTE (log 12): R_VERIFYING writes ACK whatever the checksum; R_AWAIT_EOT reads one byte and records whether it was EOT, whether a byte came, and which. -/
def Obligations.ReceiveAcknowledgesAndAwaitsEot : Prop :=
  ∀ s : State,
    (s.engine = .rVerifying → step s.engineNext =
      .next { s with txLog := s.txLog ++ [0x06], engine := .rAwaitEot }) ∧
    (s.engine = .rAwaitEot →
      (∀ b : Byte, step (s.incoming b) = .next { s with
        rdGot := true, rdByte := b,
        eotOk := decide (b = 0x04), eotGot := true, eotByte := b, engine := .rDecoding }) ∧
      (s.rxQ = [] → step s.engineNext =
        .next { s with rdGot := false, eotOk := false, eotGot := false, engine := .rDecoding }))

/-- R179, R182, R184: R_DECODING decodes the frame read. A decoded Response is written to RESP with RESP_VALID, BUF_LEN = EXP_N and FRAME_AVAIL, and the outcome is RESPONSE or, with the EOT missing, MISSING_TERMINATOR; a decode error is reported as it is, EOT_MISSING recording a missing EOT, and the frame is kept only for a CHECKSUM_MISMATCH with LENIENT = 1. -/
def Obligations.ReceiveCompletesByTheTable : Prop :=
  ∀ (s : State) (f : List Byte), s.engine = .rDecoding → s.savedOk →
    f.length = s.expN.toNat → s.holds f →
    (∀ v, decResp f = .ok v →
      (s.eotOk = true → step s.engineNext =
        .next { s.ended .response .none 0 0 with
          resp := s.resp.store v, bufLen := s.expN,
          status := { (s.ended .response .none 0 0).status with
            respValid := true, frameAvail := true } }) ∧
      (s.eotOk = false → step s.engineNext =
        .next { s.ended .error .missingTerminator (if s.eotGot then s.eotByte else 0)
            (if s.eotGot then 1 else 0) with
          resp := s.resp.store v, bufLen := s.expN,
          err := { code := .missingTerminator, eotMissing := true },
          status := { (s.ended .error .none 0 0).status with
            respValid := true, frameAvail := true } })) ∧
    (∀ e, decResp f = .error e →
      (e.code = .checksumMismatch ∧ s.ctrl.lenient = true → step s.engineNext =
        .next { s.ended .error e.code e.info0 e.info1 with
          bufLen := s.expN,
          err := { code := e.code, eotMissing := s.err.eotMissing || !s.eotOk },
          status := { (s.ended .error .none 0 0).status with frameAvail := true } }) ∧
      (¬ (e.code = .checksumMismatch ∧ s.ctrl.lenient = true) → step s.engineNext =
        .next { s.ended .error e.code e.info0 e.info1 with
          err := { code := e.code, eotMissing := s.err.eotMissing || !s.eotOk } }))

/-- R185, R186, R187, R188, R191, R204 (that an empty schedule gives the ENGINE and TIMEOUT every turn is the model's choice, log 6): a whole RECEIVE in which the ENGINE and TIMEOUT take every turn. Within EXP_N + 5 steps of its acceptance (88, or 33 where fewer bytes are asked for) it is IDLE again, with one of the outcomes of R204, T_TIMEOUT as before, 0, 1 or 2 ACKs written as the outcome says, and at most 85 bytes taken off the head of RX_Q. -/
def Obligations.ReceiveConversationRunsToItsEnd : Prop :=
  ∀ s : State, s.status.busy = false → s.timeoutArg.written = true →
    s.ask.answerFlag.written = true → s.params.wellFormed = true → s.schedule = [] →
    ∃ t k u n, exec .receive s = .next t ∧ k ≤ 88 ∧
      (s.ask.answerFlag.val = s.params.answerFlagLimited → k ≤ 33) ∧
      runFor k t = .next u ∧
      u.engine = .idle ∧ u.status.busy = false ∧ u.tTimeout = s.tTimeout ∧
      u.faults = s.faults ∧ n ≤ 85 ∧ u.rxQ = s.rxQ.drop n ∧
      (u.status.outcome = .noAnswer ∧ u.err.code = .none ∧ u.txLog = s.txLog ∨
       u.status.outcome = .error ∧
         u.err.code ∈ [ErrCode.unrecognizedAnswerFlag, .truncatedAnswer, .framingError] ∧
         u.txLog = s.txLog ++ [0x06] ∨
       u.status.outcome = .response ∧ u.err.code = .none ∧ u.txLog = s.txLog ++ [0x06, 0x06] ∨
       u.status.outcome = .error ∧
         u.err.code ∈ [ErrCode.checksumMismatch, .fieldFormatError, .missingTerminator] ∧
         u.txLog = s.txLog ++ [0x06, 0x06])

/-! ## The wire control bytes as instructions -/

/-- R89 with R152, R155, R172, R178, R174, and R39 for RD_GOT and RD_BYTE (log 12); a wire byte as an instruction is log 13: what each control byte does where PEHE recognises it, or stores it. -/
def Obligations.ControlBytesActWhereRecognised : Prop :=
  ∀ s : State,
    (s.engine = .sAwaitAck → exec .ack s =
      .next { s with rdGot := true, rdByte := 0x06, engine := .sSending }) ∧
    (s.engine = .sAwaitPostAck → exec .ack s =
      .next { s with rdGot := true, rdByte := 0x06, engine := .sCloseSent }) ∧
    (s.engine = .sAwaitPostAck → exec .nak s =
      .next { s with rdGot := true, rdByte := 0x15, engine := .sCloseRejected }) ∧
    (s.engine = .sAwaitAck → s.savedOk → exec .nak s =
      .next { s.ended .error .initializationFailed 0x15 1 with
        rdGot := true, rdByte := 0x15 }) ∧
    (s.engine = .rAwaitEnq → exec .enq s =
      .next { s with rdGot := true, rdByte := 0x05, txLog := s.txLog ++ [0x06],
                     engine := .rAccepting }) ∧
    (s.engine = .rAwaitEot → exec .eot s =
      .next { s with rdGot := true, rdByte := 0x04, eotOk := true, eotGot := true, eotByte := 0x04, engine := .rDecoding }) ∧
    (s.engine = .rReading → s.rxCount.toNat + 1 < s.expN.toNat →
      (∃ m : Memory, exec .stx s =
          .next { s with buf := m, rxCount := BitVec.ofNat 16 (s.rxCount.toNat + 1) } ∧
        m.read s.rxCount.toNat = some 0x02 ∧
        ∀ k, k ≠ s.rxCount.toNat → m.read k = s.buf.read k) ∧
      (∃ m : Memory, exec .etx s =
          .next { s with buf := m, rxCount := BitVec.ofNat 16 (s.rxCount.toNat + 1) } ∧
        m.read s.rxCount.toNat = some 0x03 ∧
        ∀ k, k ≠ s.rxCount.toNat → m.read k = s.buf.read k))

/-- R89, R70 (exec of a byte where no read is pending is the model's choice, log 13): a control byte where it is not expected is just a byte with that value. In a read-wait state exec of it is a deliver step of that byte, and where no read is pending the byte stays first in RX_Q, nothing else changing. -/
def Obligations.ControlBytesAreOtherwiseJustBytes : Prop :=
  ∀ (i : Instr) (s : State), i.format = .wire8 →
    (s.engine.readWait = true → exec i s = step (s.incoming i.byte) ∧ ∃ t, exec i s = .next t) ∧
    (s.engine.readWait = false → exec i s = .next { s with rxQ := i.byte :: s.rxQ })

/-! ## The CALLER's accesses -/

/-- R45: with BUSY = 1 a CALLER write to CMD, to a writable register or to an element of an array register has no effect but OVERRUN ← 1 and F_BUSY_WRITE. -/
def Obligations.WritesWhileBusyAreRefused : Prop :=
  ∀ (s : State) (r : Reg) (v i : Nat), s.status.busy = true →
    (r.rights ≠ .readOnly → r.isArray = false →
      step { s with schedule := .access (.write r.number v) :: s.schedule } =
        .next { s with status := { s.status with overrun := true },
                       faults := { s.faults with busyWrite := true } }) ∧
    (r.isArray = true → i < s.arrayLength r →
      step { s with schedule := .access (.writeElem r.number i v) :: s.schedule } =
        .next { s with status := { s.status with overrun := true },
                       faults := { s.faults with busyWrite := true } })

/-- R45, R216, D40: with BUSY = 1 a read of STATUS gives its value and changes nothing in PEHE, and a read of any other mapped register or of an element of an array changes nothing in PEHE either, whatever value it gives, and is no fault, though it be unwritten. -/
def Obligations.ReadsWhileBusyAreHarmless : Prop :=
  ∀ (s : State) (r : Reg) (i : Nat), s.status.busy = true →
    (r = .status → s.readGives (.read r.number) s.status.word.toNat) ∧
    (r.isArray = false → r ≠ .status →
      ∃ v, step { s with schedule := .access (.read r.number) :: s.schedule } =
        .next { s with rdata := v, draws := s.draws + 1 }) ∧
    (r.isArray = true → i < s.arrayLength r →
      ∃ v, step { s with schedule := .access (.readElem r.number i) :: s.schedule } =
        .next { s with rdata := v, draws := s.draws + 1 })

/-- R22, R23, R25, R32: with BUSY = 0 a numeric register of width w other than CTRL and BUF_LEN, written with v, reads back as v mod 2^w; CTRL as v mod 2, its reserved bits [7:1] reading 0; BUF_LEN as min(v mod 2^16, BUF_CAP); TIMEOUT_ARG as v. The write changes that register alone and the read nothing; neither records a fault. -/
def Obligations.WrittenRegistersReadBack : Prop :=
  ∀ (s : State) (r : Reg) (v w : Nat) (later : List Turn), s.status.busy = false →
    r.rights = .readWrite → r.isArray = false →
    s.schedule = .access (.write r.number v) :: .access (.read r.number) :: later →
    ∃ (t : State) (x : Nat), step s = .next t ∧
      step t = .next { t with schedule := later, rdata := x } ∧
      State.OnlyChanged { s with schedule := .access (.read r.number) :: later } t r ∧
      t.regWritten r = true ∧
      (r = .bufLen → x = min (v % 2 ^ 16) s.params.bufCap) ∧
      (r = .timeoutArg → x = v) ∧
      (r.shape = .numeric w → r ≠ .bufLen → r ≠ .ctrl → x = v % 2 ^ w) ∧
      (r = .ctrl → x = v % 2)

/-- R22, R23, R61 (a value above 0xFF is the model's choice, log 29): with BUSY = 0 an element of an array register written with v reads back as v mod 2^8; the write changes that element alone and the read nothing; an index at or beyond the array's length writes nothing and reads 0. -/
def Obligations.WrittenElementsReadBack : Prop :=
  ∀ (s : State) (r : Reg) (i v : Nat), s.status.busy = false → r.isArray = true →
    (∀ later : List Turn, i < s.arrayLength r →
      s.schedule = .access (.writeElem r.number i v) :: .access (.readElem r.number i) :: later →
      ∃ t, step s = .next t ∧ step t = .next { t with schedule := later, rdata := v % 2 ^ 8 } ∧
        t.elemSlot r i = Slot.of (BitVec.ofNat 8 v) ∧
        (∀ j, j ≠ i → t.elemSlot r j = s.elemSlot r j) ∧
        State.OnlyChanged { s with schedule := .access (.readElem r.number i) :: later } t r) ∧
    (s.arrayLength r ≤ i →
      step { s with schedule := .access (.writeElem r.number i v) :: s.schedule } = .next s ∧
      s.readGives (.readElem r.number i) 0)

/-- R22, R23 (with BUSY = 1 both are the model's reading, log 11 for the write and log 10 for the read): a write to a read-only register or to an unmapped number has no effect, and a read of an unmapped number gives 0. -/
def Obligations.ReadOnlyAndUnmappedRegisters : Prop :=
  ∀ (s : State) (n v : Nat),
    ((Reg.ofNumber n).all (fun r => decide (r.rights = .readOnly)) = true →
      step { s with schedule := .access (.write n v) :: s.schedule } = .next s) ∧
    (Reg.ofNumber n = none → step { s with schedule := .access (.read n) :: s.schedule } =
      .next { s with rdata := 0 })

/-- R76, R43: a step in which a CALLER reads a whole register or an element answers a next state, changes nothing in PEHE or the transport, and gives the CALLER a value; where what it reads is unwritten, with BUSY = 0, F_UNWRITTEN is recorded. -/
def Obligations.CallerReadsHaveNoSideEffect : Prop :=
  ∀ (s : State) (a : Access), a.wellFormed = true →
    (∀ n v, a ≠ .write n v) → (∀ n i v, a ≠ .writeElem n i v) →
    (∃ v, step { s with schedule := .access a :: s.schedule } = .next { s with rdata := v } ∨
      step { s with schedule := .access a :: s.schedule } =
        .next { s with rdata := v, draws := s.draws + 1 } ∨
      step { s with schedule := .access a :: s.schedule } = .next { s.faulted with rdata := v }) ∧
    (s.status.busy = false →
      ((∃ r : Reg, a = .read r.number ∧ s.regWritten r = false) ∨
        (∃ (r : Reg) (i : Nat), a = .readElem r.number i ∧ i < s.arrayLength r ∧
          (s.elemSlot r i).written = false)) →
      ∃ v, step { s with schedule := .access a :: s.schedule } =
        .next { s.faulted with rdata := v })

/-- R98, R99 (that the jump goes to the first place where the label is declared is the model's choice, log 17): JEQ and JNE read the register and then jump when the field does, or does not, equal the value, and go on to the next statement otherwise; WAIT goes on in one pass once BUSY = 0 and repeats while BUSY = 1. -/
def Obligations.BranchesReadAndThenJump : Prop :=
  (∀ (s : State) (reg v l : Nat) (f : Option Field) (later : List Turn),
    s.schedule = .caller :: later → (Stmt.jeq reg f v l).wellFormed s.program = true →
    ∃ t : State, t = { s with schedule := later }.callerRead reg ∧
      (s.program[s.callerPc]? = some (.jeq reg f v l) →
        (Field.select f t.rdata = v → step s =
          .next { t with callerPc := s.program.idxOf (.label l) }) ∧
        (Field.select f t.rdata ≠ v → step s = .next { t with callerPc := s.callerPc + 1 })) ∧
      (s.program[s.callerPc]? = some (.jne reg f v l) →
        (Field.select f t.rdata ≠ v → step s =
          .next { t with callerPc := s.program.idxOf (.label l) }) ∧
        (Field.select f t.rdata = v → step s = .next { t with callerPc := s.callerPc + 1 }))) ∧
  (∀ (s : State) (w : Nat) (later : List Turn),
    s.schedule = .caller :: later →
    s.program[s.callerPc]? = some (.jeq 0x02 (some .busy) 1 w) →
    (Stmt.jeq 0x02 (some .busy) 1 w).wellFormed s.program = true →
    step s = .next { s with
      schedule := later, rdata := s.status.word.toNat,
      callerPc := if s.status.busy then s.program.idxOf (.label w) else s.callerPc + 1 })

/-! ## Rules of the whole machine -/

/-- R64, R190: every step appends to TX_LOG nothing, ENQ, ACK, EOT or `BUF[0:37]` from S_SENDING; it never takes a byte away, and never writes NAK as a control byte. -/
def Obligations.TransmitLogOnlyGrows : Prop :=
  ∀ s t : State, step s = .next t → ∃ w, t.txLog = s.txLog ++ w ∧
    (w ∈ [[], [0x05#8], [0x06#8], [0x04#8]] ∨ s.engine = .sSending ∧ w = s.bufBytes 37) ∧
    (s.engine.receiving = true → s.status.busy = true → w = [] ∨ w = [0x06#8])

/-- R65, R70, R71: a step leaves RX_Q as it is, or appends the TERMINAL's byte, or is an ENGINE step in a read-wait state that takes the head of RX_Q off; where a read is pending and RX_Q is not empty, the ENGINE's turn always takes it (a byte that has arrived is returned before a timeout). -/
def Obligations.ReceiveQueueIsFirstInFirstOut : Prop :=
  ∀ s t : State, step s = .next t →
    (t.rxQ = s.rxQ ∨ (∃ b, s.nextTurn = .terminal b ∧ t.rxQ = s.rxQ ++ [b]) ∨
      s.nextTurn = .engine ∧ s.engine.readWait = true ∧ ∃ b, s.rxQ = b :: t.rxQ) ∧
    (s.nextTurn = .engine → s.engine.readWait = true → t.rxQ = s.rxQ.tail)

/-- R66: T_TIMEOUT, SAVED_TIMEOUT and TO_SAVED change only together: where the timeout is saved (TO_SAVED goes from 0 to 1), SAVED_TIMEOUT gets the old value and T_TIMEOUT that of TIMEOUT_ARG; where it is restored (from 1 to 0), T_TIMEOUT gets the saved value; and a reset with nothing saved leaves T_TIMEOUT as it is. -/
def Obligations.TimeoutKnobIsSavedAndRestored : Prop :=
  ∀ s t : State, s.Inv → step s = .next t →
    t.tTimeout = s.tTimeout ∧ t.savedTimeout = s.savedTimeout ∧ t.toSaved = s.toSaved ∨
    s.toSaved = false ∧ t.toSaved = true ∧ t.savedTimeout = Slot.of s.tTimeout ∧
      (s.timeoutArg.written = true → t.tTimeout = s.timeoutArg.val) ∨
    s.toSaved = true ∧ t.toSaved = false ∧ t.tTimeout = s.savedTimeout.val ∨
    s.nextTurn = .reset ∧ s.toSaved = false ∧ t.toSaved = false ∧ t.tTimeout = s.tTimeout

/-- R26, R216, R231: OVERRUN is cleared only by reset, and FAULTS never loses a fault, not even by reset. -/
def Obligations.OverrunAndFaultsAreSticky : Prop :=
  ∀ s t : State, step s = .next t →
    (s.status.overrun = true → s.nextTurn ≠ .reset → t.status.overrun = true) ∧
    (s.faults.unwritten = true → t.faults.unwritten = true) ∧
    (s.faults.busyWrite = true → t.faults.busyWrite = true)

/-- R30: LRC_VALUE changes only in a step that runs LRC with BUSY = 0, or by reset. -/
def Obligations.OnlyLrcWritesLrcValue : Prop :=
  ∀ s t : State, step s = .next t →
    t.lrcValue = s.lrcValue ∨ s.nextTurn = .reset ∨
      s.status.busy = false ∧ ∃ u, fetch s = .instr .lrc u

/-- R40, R159, R185: STATE moves only along the transitions of the two tables, back to IDLE by finish or reset, and to the first state of SEND or RECEIVE by acceptance. -/
def Obligations.EngineStateFollowsTheTables : Prop :=
  ∀ s t : State, s.Inv → step s = .next t →
    t.engine = s.engine ∨ s.nextTurn = .reset ∧ t.engine = .idle ∨
    (s.engine, t.engine) ∈
      [(EngineState.idle, EngineState.sAwaitAck), (.sAwaitAck, .sSending), (.sAwaitAck, .idle),
       (.sSending, .sAwaitPostAck), (.sAwaitPostAck, .sCloseSent),
       (.sAwaitPostAck, .sCloseRejected), (.sCloseSent, .idle), (.sCloseRejected, .idle),
       (.idle, .rAwaitEnq), (.rAwaitEnq, .rAccepting), (.rAwaitEnq, .idle),
       (.rAccepting, .rReading), (.rAccepting, .idle), (.rReading, .rVerifying),
       (.rReading, .idle), (.rVerifying, .rAwaitEot), (.rAwaitEot, .rDecoding),
       (.rDecoding, .idle)]

/-! ## What reads give, and unwritten inputs -/

/-- R21, R22, R24 to R37, R200, R201: what a CALLER read gives, register by register and number by number: STATUS at any time, its bits laid out as R26 has them; with BUSY = 0, CMD 0, CTRL and ERR by the layouts of R25 and R28, each other register its value, each element of an array its byte. Nothing changes. -/
def Obligations.ReadsGiveTheRegisterValues : Prop :=
  ∀ s : State,
    (∀ k, [CmdOutcome.none, .ok, .sent, .rejected, .noAnswer, .response, .error][k]? =
        some s.status.outcome →
      s.readGives (.read 0x02) (s.status.busy.toNat + 2 * s.status.respValid.toNat +
        4 * s.status.frameAvail.toNat + 8 * s.status.check.toNat + 16 * k +
        128 * s.status.overrun.toNat)) ∧
    (s.status.busy = false →
      (∀ k, [ErrCode.none, .checksumMismatch, .framingError, .lengthMismatch, .fieldFormatError,
            .amountOutOfRange, .initializationFailed, .truncatedAnswer, .missingTerminator,
            .unrecognizedAnswerFlag, .unknownCurrency, .emptyInput, .illegalCommand][k]? =
          some s.err.code →
        s.readGives (.read 0x03) (k + 16 * s.err.eotMissing.toNat)) ∧
      s.readGives (.read 0x00) 0 ∧ s.readGives (.read 0x01) s.ctrl.lenient.toNat ∧
      s.readGives (.read 0x04) s.errInfo0.toNat ∧ s.readGives (.read 0x05) s.errInfo1.toNat ∧
      s.readGives (.read 0x06) s.lrcValue.toNat ∧ s.readGives (.read 0x08) s.bufLen.toNat ∧
      (∀ v, s.timeoutArg = Slot.of v → s.readGives (.read 0x07) v) ∧
      (∀ v, s.ask.mant = Slot.of v → s.readGives (.read 0x11) v.toNat) ∧
      (∀ v, s.ask.scale = Slot.of v → s.readGives (.read 0x12) v.toNat) ∧
      (∀ v, s.ask.answerFlag = Slot.of v → s.readGives (.read 0x13) v.toNat) ∧
      (∀ v, s.ask.paymentMode = Slot.of v → s.readGives (.read 0x14) v.toNat) ∧
      (∀ v, s.ask.transactionType = Slot.of v → s.readGives (.read 0x15) v.toNat) ∧
      (∀ v, s.resp.result = Slot.of v → s.readGives (.read 0x21) v.toNat) ∧
      (∀ v, s.resp.amount = Slot.of v → s.readGives (.read 0x22) v.toNat) ∧
      (∀ v, s.resp.paymentMode = Slot.of v → s.readGives (.read 0x23) v.toNat) ∧
      (∀ v, s.resp.reportLen = Slot.of v → s.readGives (.read 0x24) v.toNat) ∧
      (∀ (i : Nat) (b : Byte),
        (i < s.params.bufCap → s.buf.read i = some b → s.readGives (.readElem 0x09 i) b.toNat) ∧
        (s.ask.pos[i]? = some (Slot.of b) → s.readGives (.readElem 0x10 i) b.toNat) ∧
        (s.ask.currency[i]? = some (Slot.of b) → s.readGives (.readElem 0x16 i) b.toNat) ∧
        (s.ask.priv[i]? = some (Slot.of b) → s.readGives (.readElem 0x17 i) b.toNat) ∧
        (s.ask.delay[i]? = some (Slot.of b) → s.readGives (.readElem 0x18 i) b.toNat) ∧
        (s.ask.auth[i]? = some (Slot.of b) → s.readGives (.readElem 0x19 i) b.toNat) ∧
        (s.resp.pos[i]? = some (Slot.of b) → s.readGives (.readElem 0x20 i) b.toNat) ∧
        (s.resp.report[i]? = some (Slot.of b) → s.readGives (.readElem 0x25 i) b.toNat) ∧
        (s.resp.currency[i]? = some (Slot.of b) → s.readGives (.readElem 0x26 i) b.toNat) ∧
        (s.resp.priv[i]? = some (Slot.of b) → s.readGives (.readElem 0x27 i) b.toNat)))

/-- R114, R127, R131, R135, R150, R170, R212, R216 (which registers count as read where an encoding fails is log 24): a command that reads something unwritten records F_UNWRITTEN and goes on: LRC_CHECK, DECODE_ASK, DECODE_RESPONSE and ENCODE_RESPONSE complete in the same step, SEND and RECEIVE open their conversation (SEND may end with AMOUNT_OUT_OF_RANGE instead). It writes no more than its own outputs; the decoders write their block only where they end OK, the encoders BUF and BUF_LEN only where they end OK. -/
def Obligations.UnwrittenInputsAreRecordedAndTheCommandGoesOn : Prop :=
  ∀ s : State, s.status.busy = false →
    ((∃ k, k < s.bufLen.toNat ∧ s.buf.read k = none) →
      (∃ c i0 i1, exec .lrcCheck s = .next { s.faulted.completed .ok .none i0 i1 with
          status := { (s.faulted.completed .ok .none i0 i1).status with check := c } } ∧
        (c = true → i0 = 0 ∧ i1 = 0) ∧
        (s.bufLen.toNat < 3 → c = false ∧ i0 = 0 ∧ i1 = 0)) ∧
      (∃ o c i0 i1 k, exec .decodeAsk s =
          .next { s.faulted.completed o c i0 i1 with ask := k } ∧
        (o = .ok ∧ c = .none ∧ k.written = true ∨
          o = .error ∧ k = s.ask ∧
            c ∈ [ErrCode.checksumMismatch, .lengthMismatch, .fieldFormatError])) ∧
      (∃ o c i0 i1 r b, exec .decodeResponse s =
          .next { s.faulted.completed o c i0 i1 with
            resp := r,
            status := { (s.faulted.completed o c i0 i1).status with respValid := b } } ∧
        (o = .ok ∧ c = .none ∧ r.written = true ∧ b = true ∨
          o = .error ∧ r = s.resp ∧ b = false ∧
            c ∈ [ErrCode.checksumMismatch, .lengthMismatch, .fieldFormatError]))) ∧
    ((s.resp.reportLen.written = false ∨
        (s.resp.reportLen = Slot.of 0 ∨ s.resp.reportLen = Slot.of 55) ∧
        (s.resp.result.written = false ∨
          s.resp.result.val.toNat ≤ 9 ∧
          (s.resp.amount.written = false ∨
            s.resp.amount.val.toNat ≤ 99999999 ∧
            (s.resp.pos.written = false ∨ s.resp.paymentMode.written = false ∨
              s.resp.currency.written = false ∨ s.resp.priv.written = false ∨
              s.resp.reportLen = Slot.of 55 ∧ s.resp.report.written = false)))) →
      ∃ (o : CmdOutcome) (c : ErrCode) (i0 i1 : Byte) (m : Memory) (l : BitVec 16),
        exec .encodeResponse s =
          .next { s.faulted.completed o c i0 i1 with buf := m, bufLen := l } ∧
        (o = .ok ∧ c = .none ∧ (l = 28 ∨ l = 83) ∧
            (∀ k, l.toNat ≤ k → m.read k = s.buf.read k) ∨
          o = .error ∧ m = s.buf ∧ l = s.bufLen ∧
            c ∈ [ErrCode.lengthMismatch, .fieldFormatError, .amountOutOfRange])) ∧
    ((s.ask.written = false ∨ s.timeoutArg.written = false) →
      exec .send s = .next (s.faulted.completed .error .amountOutOfRange 0 0) ∨
      ∃ (f : List Byte) (m : Memory) (v : TimeoutVal),
        exec .send s = .next { s.faulted.begun with
          buf := m, bufLen := 37, savedTimeout := Slot.of s.tTimeout, toSaved := true,
          tTimeout := v, txLog := s.txLog ++ [0x05], engine := .sAwaitAck } ∧
        f.length = 37 ∧ Memory.storedFrame s.buf m f ∧
        (s.timeoutArg.written = true → v = s.timeoutArg.val) ∧
        (s.ask.written = true → encAsk s.askVal = .ok f)) ∧
    (s.timeoutArg.written = false →
      ∃ v : TimeoutVal, exec .receive s = .next { s.faulted.begun with
        bufLen := 0, savedTimeout := Slot.of s.tTimeout, toSaved := true, tTimeout := v,
        eotOk := false, eotGot := false, eotByte := 0, rxCount := 0, engine := .rAwaitEnq })
end

