-- ==== Sys2Proof/Laws/State.lean ====
section
/-! SUPPORT. For each named update of State, what every field is afterwards: one law per update, a conjunction with one equation per field, which simp splits. No later proof unfolds a record update. -/

namespace Sys2Proof.Machine

@[simp] theorem State.accept_fields (s : State) :
    s.accept.params = s.params ∧ s.accept.ctrl = s.ctrl ∧
    s.accept.status = s.status.accepted ∧ s.accept.err = ⟨.none, false⟩ ∧
    s.accept.errInfo0 = 0 ∧ s.accept.errInfo1 = 0 ∧
    s.accept.lrcValue = s.lrcValue ∧ s.accept.timeoutArg = s.timeoutArg ∧
    s.accept.bufLen = s.bufLen ∧ s.accept.buf = s.buf ∧
    s.accept.ask = s.ask ∧ s.accept.resp = s.resp ∧
    s.accept.engine = s.engine ∧ s.accept.savedTimeout = s.savedTimeout ∧
    s.accept.toSaved = false ∧ s.accept.expN = s.expN ∧
    s.accept.rxCount = s.rxCount ∧ s.accept.rdGot = s.rdGot ∧
    s.accept.rdByte = s.rdByte ∧ s.accept.eotOk = s.eotOk ∧
    s.accept.eotGot = s.eotGot ∧ s.accept.eotByte = s.eotByte ∧
    s.accept.txLog = s.txLog ∧ s.accept.rxQ = s.rxQ ∧
    s.accept.tTimeout = s.tTimeout ∧ s.accept.faults = s.faults ∧
    s.accept.draws = s.draws ∧ s.accept.schedule = s.schedule ∧
    s.accept.program = s.program ∧ s.accept.callerPc = s.callerPc ∧
    s.accept.rdata = s.rdata := by
  repeat' constructor

@[simp] theorem State.busyWrite_fields (s : State) :
    s.busyWrite.params = s.params ∧ s.busyWrite.ctrl = s.ctrl ∧
    s.busyWrite.status = { s.status with overrun := true } ∧ s.busyWrite.err = s.err ∧
    s.busyWrite.errInfo0 = s.errInfo0 ∧ s.busyWrite.errInfo1 = s.errInfo1 ∧
    s.busyWrite.lrcValue = s.lrcValue ∧ s.busyWrite.timeoutArg = s.timeoutArg ∧
    s.busyWrite.bufLen = s.bufLen ∧ s.busyWrite.buf = s.buf ∧
    s.busyWrite.ask = s.ask ∧ s.busyWrite.resp = s.resp ∧
    s.busyWrite.engine = s.engine ∧ s.busyWrite.savedTimeout = s.savedTimeout ∧
    s.busyWrite.toSaved = s.toSaved ∧ s.busyWrite.expN = s.expN ∧
    s.busyWrite.rxCount = s.rxCount ∧ s.busyWrite.rdGot = s.rdGot ∧
    s.busyWrite.rdByte = s.rdByte ∧ s.busyWrite.eotOk = s.eotOk ∧
    s.busyWrite.eotGot = s.eotGot ∧ s.busyWrite.eotByte = s.eotByte ∧
    s.busyWrite.txLog = s.txLog ∧ s.busyWrite.rxQ = s.rxQ ∧
    s.busyWrite.tTimeout = s.tTimeout ∧ s.busyWrite.faults = s.faults.record .busyWrite ∧
    s.busyWrite.draws = s.draws ∧ s.busyWrite.schedule = s.schedule ∧
    s.busyWrite.program = s.program ∧ s.busyWrite.callerPc = s.callerPc ∧
    s.busyWrite.rdata = s.rdata := by
  repeat' constructor

@[simp] theorem State.putFrame_fields (s : State) (f : List Byte) :
    (s.putFrame f).params = s.params ∧ (s.putFrame f).ctrl = s.ctrl ∧
    (s.putFrame f).status = s.status ∧ (s.putFrame f).err = s.err ∧
    (s.putFrame f).errInfo0 = s.errInfo0 ∧ (s.putFrame f).errInfo1 = s.errInfo1 ∧
    (s.putFrame f).lrcValue = s.lrcValue ∧ (s.putFrame f).timeoutArg = s.timeoutArg ∧
    (s.putFrame f).bufLen = BitVec.ofNat 16 f.length ∧ (s.putFrame f).buf = s.buf.writeAll 0 f ∧
    (s.putFrame f).ask = s.ask ∧ (s.putFrame f).resp = s.resp ∧
    (s.putFrame f).engine = s.engine ∧ (s.putFrame f).savedTimeout = s.savedTimeout ∧
    (s.putFrame f).toSaved = s.toSaved ∧ (s.putFrame f).expN = s.expN ∧
    (s.putFrame f).rxCount = s.rxCount ∧ (s.putFrame f).rdGot = s.rdGot ∧
    (s.putFrame f).rdByte = s.rdByte ∧ (s.putFrame f).eotOk = s.eotOk ∧
    (s.putFrame f).eotGot = s.eotGot ∧ (s.putFrame f).eotByte = s.eotByte ∧
    (s.putFrame f).txLog = s.txLog ∧ (s.putFrame f).rxQ = s.rxQ ∧
    (s.putFrame f).tTimeout = s.tTimeout ∧ (s.putFrame f).faults = s.faults ∧
    (s.putFrame f).draws = s.draws ∧ (s.putFrame f).schedule = s.schedule ∧
    (s.putFrame f).program = s.program ∧ (s.putFrame f).callerPc = s.callerPc ∧
    (s.putFrame f).rdata = s.rdata := by
  repeat' constructor

@[simp] theorem State.txWrite_fields (s : State) (bs : List Byte) :
    (s.txWrite bs).params = s.params ∧ (s.txWrite bs).ctrl = s.ctrl ∧
    (s.txWrite bs).status = s.status ∧ (s.txWrite bs).err = s.err ∧
    (s.txWrite bs).errInfo0 = s.errInfo0 ∧ (s.txWrite bs).errInfo1 = s.errInfo1 ∧
    (s.txWrite bs).lrcValue = s.lrcValue ∧ (s.txWrite bs).timeoutArg = s.timeoutArg ∧
    (s.txWrite bs).bufLen = s.bufLen ∧ (s.txWrite bs).buf = s.buf ∧
    (s.txWrite bs).ask = s.ask ∧ (s.txWrite bs).resp = s.resp ∧
    (s.txWrite bs).engine = s.engine ∧ (s.txWrite bs).savedTimeout = s.savedTimeout ∧
    (s.txWrite bs).toSaved = s.toSaved ∧ (s.txWrite bs).expN = s.expN ∧
    (s.txWrite bs).rxCount = s.rxCount ∧ (s.txWrite bs).rdGot = s.rdGot ∧
    (s.txWrite bs).rdByte = s.rdByte ∧ (s.txWrite bs).eotOk = s.eotOk ∧
    (s.txWrite bs).eotGot = s.eotGot ∧ (s.txWrite bs).eotByte = s.eotByte ∧
    (s.txWrite bs).txLog = s.txLog ++ bs ∧ (s.txWrite bs).rxQ = s.rxQ ∧
    (s.txWrite bs).tTimeout = s.tTimeout ∧ (s.txWrite bs).faults = s.faults ∧
    (s.txWrite bs).draws = s.draws ∧ (s.txWrite bs).schedule = s.schedule ∧
    (s.txWrite bs).program = s.program ∧ (s.txWrite bs).callerPc = s.callerPc ∧
    (s.txWrite bs).rdata = s.rdata := by
  repeat' constructor

@[simp] theorem State.setTimeout_fields (s : State) :
    s.setTimeout.params = s.params ∧ s.setTimeout.ctrl = s.ctrl ∧
    s.setTimeout.status = s.status ∧ s.setTimeout.err = s.err ∧
    s.setTimeout.errInfo0 = s.errInfo0 ∧ s.setTimeout.errInfo1 = s.errInfo1 ∧
    s.setTimeout.lrcValue = s.lrcValue ∧ s.setTimeout.timeoutArg = s.timeoutArg ∧
    s.setTimeout.bufLen = s.bufLen ∧ s.setTimeout.buf = s.buf ∧
    s.setTimeout.ask = s.ask ∧ s.setTimeout.resp = s.resp ∧
    s.setTimeout.engine = s.engine ∧ s.setTimeout.savedTimeout = Slot.of s.tTimeout ∧
    s.setTimeout.toSaved = true ∧ s.setTimeout.expN = s.expN ∧
    s.setTimeout.rxCount = s.rxCount ∧ s.setTimeout.rdGot = s.rdGot ∧
    s.setTimeout.rdByte = s.rdByte ∧ s.setTimeout.eotOk = s.eotOk ∧
    s.setTimeout.eotGot = s.eotGot ∧ s.setTimeout.eotByte = s.eotByte ∧
    s.setTimeout.txLog = s.txLog ∧ s.setTimeout.rxQ = s.rxQ ∧
    s.setTimeout.tTimeout = s.timeoutAt Reg.timeoutArg.number s.timeoutArg ∧ s.setTimeout.faults = s.faults ∧
    s.setTimeout.draws = s.draws ∧ s.setTimeout.schedule = s.schedule ∧
    s.setTimeout.program = s.program ∧ s.setTimeout.callerPc = s.callerPc ∧
    s.setTimeout.rdata = s.rdata := by
  repeat' constructor

@[simp] theorem State.readGot_fields (s : State) (b : Byte) :
    (s.readGot b).params = s.params ∧ (s.readGot b).ctrl = s.ctrl ∧
    (s.readGot b).status = s.status ∧ (s.readGot b).err = s.err ∧
    (s.readGot b).errInfo0 = s.errInfo0 ∧ (s.readGot b).errInfo1 = s.errInfo1 ∧
    (s.readGot b).lrcValue = s.lrcValue ∧ (s.readGot b).timeoutArg = s.timeoutArg ∧
    (s.readGot b).bufLen = s.bufLen ∧ (s.readGot b).buf = s.buf ∧
    (s.readGot b).ask = s.ask ∧ (s.readGot b).resp = s.resp ∧
    (s.readGot b).engine = s.engine ∧ (s.readGot b).savedTimeout = s.savedTimeout ∧
    (s.readGot b).toSaved = s.toSaved ∧ (s.readGot b).expN = s.expN ∧
    (s.readGot b).rxCount = s.rxCount ∧ (s.readGot b).rdGot = true ∧
    (s.readGot b).rdByte = b ∧ (s.readGot b).eotOk = s.eotOk ∧
    (s.readGot b).eotGot = s.eotGot ∧ (s.readGot b).eotByte = s.eotByte ∧
    (s.readGot b).txLog = s.txLog ∧ (s.readGot b).rxQ = s.rxQ ∧
    (s.readGot b).tTimeout = s.tTimeout ∧ (s.readGot b).faults = s.faults ∧
    (s.readGot b).draws = s.draws ∧ (s.readGot b).schedule = s.schedule ∧
    (s.readGot b).program = s.program ∧ (s.readGot b).callerPc = s.callerPc ∧
    (s.readGot b).rdata = s.rdata := by
  repeat' constructor

@[simp] theorem State.readTimedOut_fields (s : State) :
    s.readTimedOut.params = s.params ∧ s.readTimedOut.ctrl = s.ctrl ∧
    s.readTimedOut.status = s.status ∧ s.readTimedOut.err = s.err ∧
    s.readTimedOut.errInfo0 = s.errInfo0 ∧ s.readTimedOut.errInfo1 = s.errInfo1 ∧
    s.readTimedOut.lrcValue = s.lrcValue ∧ s.readTimedOut.timeoutArg = s.timeoutArg ∧
    s.readTimedOut.bufLen = s.bufLen ∧ s.readTimedOut.buf = s.buf ∧
    s.readTimedOut.ask = s.ask ∧ s.readTimedOut.resp = s.resp ∧
    s.readTimedOut.engine = s.engine ∧ s.readTimedOut.savedTimeout = s.savedTimeout ∧
    s.readTimedOut.toSaved = s.toSaved ∧ s.readTimedOut.expN = s.expN ∧
    s.readTimedOut.rxCount = s.rxCount ∧ s.readTimedOut.rdGot = false ∧
    s.readTimedOut.rdByte = s.rdByte ∧ s.readTimedOut.eotOk = s.eotOk ∧
    s.readTimedOut.eotGot = s.eotGot ∧ s.readTimedOut.eotByte = s.eotByte ∧
    s.readTimedOut.txLog = s.txLog ∧ s.readTimedOut.rxQ = s.rxQ ∧
    s.readTimedOut.tTimeout = s.tTimeout ∧ s.readTimedOut.faults = s.faults ∧
    s.readTimedOut.draws = s.draws ∧ s.readTimedOut.schedule = s.schedule ∧
    s.readTimedOut.program = s.program ∧ s.readTimedOut.callerPc = s.callerPc ∧
    s.readTimedOut.rdata = s.rdata := by
  repeat' constructor

@[simp] theorem State.writeResp_fields (s : State) (v : RespVal) :
    (s.writeResp v).params = s.params ∧ (s.writeResp v).ctrl = s.ctrl ∧
    (s.writeResp v).status = { s.status with respValid := true } ∧ (s.writeResp v).err = s.err ∧
    (s.writeResp v).errInfo0 = s.errInfo0 ∧ (s.writeResp v).errInfo1 = s.errInfo1 ∧
    (s.writeResp v).lrcValue = s.lrcValue ∧ (s.writeResp v).timeoutArg = s.timeoutArg ∧
    (s.writeResp v).bufLen = s.bufLen ∧ (s.writeResp v).buf = s.buf ∧
    (s.writeResp v).ask = s.ask ∧ (s.writeResp v).resp = s.resp.store v ∧
    (s.writeResp v).engine = s.engine ∧ (s.writeResp v).savedTimeout = s.savedTimeout ∧
    (s.writeResp v).toSaved = s.toSaved ∧ (s.writeResp v).expN = s.expN ∧
    (s.writeResp v).rxCount = s.rxCount ∧ (s.writeResp v).rdGot = s.rdGot ∧
    (s.writeResp v).rdByte = s.rdByte ∧ (s.writeResp v).eotOk = s.eotOk ∧
    (s.writeResp v).eotGot = s.eotGot ∧ (s.writeResp v).eotByte = s.eotByte ∧
    (s.writeResp v).txLog = s.txLog ∧ (s.writeResp v).rxQ = s.rxQ ∧
    (s.writeResp v).tTimeout = s.tTimeout ∧ (s.writeResp v).faults = s.faults ∧
    (s.writeResp v).draws = s.draws ∧ (s.writeResp v).schedule = s.schedule ∧
    (s.writeResp v).program = s.program ∧ (s.writeResp v).callerPc = s.callerPc ∧
    (s.writeResp v).rdata = s.rdata := by
  repeat' constructor

@[simp] theorem State.keepFrame_fields (s : State) :
    s.keepFrame.params = s.params ∧ s.keepFrame.ctrl = s.ctrl ∧
    s.keepFrame.status = { s.status with frameAvail := true } ∧ s.keepFrame.err = s.err ∧
    s.keepFrame.errInfo0 = s.errInfo0 ∧ s.keepFrame.errInfo1 = s.errInfo1 ∧
    s.keepFrame.lrcValue = s.lrcValue ∧ s.keepFrame.timeoutArg = s.timeoutArg ∧
    s.keepFrame.bufLen = s.expN ∧ s.keepFrame.buf = s.buf ∧
    s.keepFrame.ask = s.ask ∧ s.keepFrame.resp = s.resp ∧
    s.keepFrame.engine = s.engine ∧ s.keepFrame.savedTimeout = s.savedTimeout ∧
    s.keepFrame.toSaved = s.toSaved ∧ s.keepFrame.expN = s.expN ∧
    s.keepFrame.rxCount = s.rxCount ∧ s.keepFrame.rdGot = s.rdGot ∧
    s.keepFrame.rdByte = s.rdByte ∧ s.keepFrame.eotOk = s.eotOk ∧
    s.keepFrame.eotGot = s.eotGot ∧ s.keepFrame.eotByte = s.eotByte ∧
    s.keepFrame.txLog = s.txLog ∧ s.keepFrame.rxQ = s.rxQ ∧
    s.keepFrame.tTimeout = s.tTimeout ∧ s.keepFrame.faults = s.faults ∧
    s.keepFrame.draws = s.draws ∧ s.keepFrame.schedule = s.schedule ∧
    s.keepFrame.program = s.program ∧ s.keepFrame.callerPc = s.callerPc ∧
    s.keepFrame.rdata = s.rdata := by
  repeat' constructor

@[simp] theorem State.faulted_fields (s : State) :
    s.faulted.params = s.params ∧ s.faulted.ctrl = s.ctrl ∧
    s.faulted.status = s.status ∧ s.faulted.err = s.err ∧
    s.faulted.errInfo0 = s.errInfo0 ∧ s.faulted.errInfo1 = s.errInfo1 ∧
    s.faulted.lrcValue = s.lrcValue ∧ s.faulted.timeoutArg = s.timeoutArg ∧
    s.faulted.bufLen = s.bufLen ∧ s.faulted.buf = s.buf ∧
    s.faulted.ask = s.ask ∧ s.faulted.resp = s.resp ∧
    s.faulted.engine = s.engine ∧ s.faulted.savedTimeout = s.savedTimeout ∧
    s.faulted.toSaved = s.toSaved ∧ s.faulted.expN = s.expN ∧
    s.faulted.rxCount = s.rxCount ∧ s.faulted.rdGot = s.rdGot ∧
    s.faulted.rdByte = s.rdByte ∧ s.faulted.eotOk = s.eotOk ∧
    s.faulted.eotGot = s.eotGot ∧ s.faulted.eotByte = s.eotByte ∧
    s.faulted.txLog = s.txLog ∧ s.faulted.rxQ = s.rxQ ∧
    s.faulted.tTimeout = s.tTimeout ∧ s.faulted.faults = { s.faults with unwritten := true } ∧
    s.faulted.draws = s.draws + 1 ∧ s.faulted.schedule = s.schedule ∧
    s.faulted.program = s.program ∧ s.faulted.callerPc = s.callerPc ∧
    s.faulted.rdata = s.rdata := by
  repeat' constructor

@[simp] theorem State.popTurn_fields (s : State) :
    s.popTurn.params = s.params ∧ s.popTurn.ctrl = s.ctrl ∧
    s.popTurn.status = s.status ∧ s.popTurn.err = s.err ∧
    s.popTurn.errInfo0 = s.errInfo0 ∧ s.popTurn.errInfo1 = s.errInfo1 ∧
    s.popTurn.lrcValue = s.lrcValue ∧ s.popTurn.timeoutArg = s.timeoutArg ∧
    s.popTurn.bufLen = s.bufLen ∧ s.popTurn.buf = s.buf ∧
    s.popTurn.ask = s.ask ∧ s.popTurn.resp = s.resp ∧
    s.popTurn.engine = s.engine ∧ s.popTurn.savedTimeout = s.savedTimeout ∧
    s.popTurn.toSaved = s.toSaved ∧ s.popTurn.expN = s.expN ∧
    s.popTurn.rxCount = s.rxCount ∧ s.popTurn.rdGot = s.rdGot ∧
    s.popTurn.rdByte = s.rdByte ∧ s.popTurn.eotOk = s.eotOk ∧
    s.popTurn.eotGot = s.eotGot ∧ s.popTurn.eotByte = s.eotByte ∧
    s.popTurn.txLog = s.txLog ∧ s.popTurn.rxQ = s.rxQ ∧
    s.popTurn.tTimeout = s.tTimeout ∧ s.popTurn.faults = s.faults ∧
    s.popTurn.draws = s.draws ∧ s.popTurn.schedule = s.schedule.tail ∧
    s.popTurn.program = s.program ∧ s.popTurn.callerPc = s.callerPc ∧
    s.popTurn.rdata = s.rdata := by
  repeat' constructor

@[simp] theorem State.jump_fields (s : State) (l : Nat) :
    (s.jump l).params = s.params ∧ (s.jump l).ctrl = s.ctrl ∧
    (s.jump l).status = s.status ∧ (s.jump l).err = s.err ∧
    (s.jump l).errInfo0 = s.errInfo0 ∧ (s.jump l).errInfo1 = s.errInfo1 ∧
    (s.jump l).lrcValue = s.lrcValue ∧ (s.jump l).timeoutArg = s.timeoutArg ∧
    (s.jump l).bufLen = s.bufLen ∧ (s.jump l).buf = s.buf ∧
    (s.jump l).ask = s.ask ∧ (s.jump l).resp = s.resp ∧
    (s.jump l).engine = s.engine ∧ (s.jump l).savedTimeout = s.savedTimeout ∧
    (s.jump l).toSaved = s.toSaved ∧ (s.jump l).expN = s.expN ∧
    (s.jump l).rxCount = s.rxCount ∧ (s.jump l).rdGot = s.rdGot ∧
    (s.jump l).rdByte = s.rdByte ∧ (s.jump l).eotOk = s.eotOk ∧
    (s.jump l).eotGot = s.eotGot ∧ (s.jump l).eotByte = s.eotByte ∧
    (s.jump l).txLog = s.txLog ∧ (s.jump l).rxQ = s.rxQ ∧
    (s.jump l).tTimeout = s.tTimeout ∧ (s.jump l).faults = s.faults ∧
    (s.jump l).draws = s.draws ∧ (s.jump l).schedule = s.schedule ∧
    (s.jump l).program = s.program ∧ (s.jump l).callerPc = s.program.idxOf (Stmt.label l) ∧
    (s.jump l).rdata = s.rdata := by
  repeat' constructor

@[simp] theorem State.callerNext_fields (s : State) :
    s.callerNext.params = s.params ∧ s.callerNext.ctrl = s.ctrl ∧
    s.callerNext.status = s.status ∧ s.callerNext.err = s.err ∧
    s.callerNext.errInfo0 = s.errInfo0 ∧ s.callerNext.errInfo1 = s.errInfo1 ∧
    s.callerNext.lrcValue = s.lrcValue ∧ s.callerNext.timeoutArg = s.timeoutArg ∧
    s.callerNext.bufLen = s.bufLen ∧ s.callerNext.buf = s.buf ∧
    s.callerNext.ask = s.ask ∧ s.callerNext.resp = s.resp ∧
    s.callerNext.engine = s.engine ∧ s.callerNext.savedTimeout = s.savedTimeout ∧
    s.callerNext.toSaved = s.toSaved ∧ s.callerNext.expN = s.expN ∧
    s.callerNext.rxCount = s.rxCount ∧ s.callerNext.rdGot = s.rdGot ∧
    s.callerNext.rdByte = s.rdByte ∧ s.callerNext.eotOk = s.eotOk ∧
    s.callerNext.eotGot = s.eotGot ∧ s.callerNext.eotByte = s.eotByte ∧
    s.callerNext.txLog = s.txLog ∧ s.callerNext.rxQ = s.rxQ ∧
    s.callerNext.tTimeout = s.tTimeout ∧ s.callerNext.faults = s.faults ∧
    s.callerNext.draws = s.draws ∧ s.callerNext.schedule = s.schedule ∧
    s.callerNext.program = s.program ∧ s.callerNext.callerPc = s.callerPc + 1 ∧
    s.callerNext.rdata = s.rdata := by
  repeat' constructor

@[simp] theorem State.noteRead_fields (s : State) (w : Bool) :
    (s.noteRead w).params = s.params ∧ (s.noteRead w).ctrl = s.ctrl ∧
    (s.noteRead w).status = s.status ∧ (s.noteRead w).err = s.err ∧
    (s.noteRead w).errInfo0 = s.errInfo0 ∧ (s.noteRead w).errInfo1 = s.errInfo1 ∧
    (s.noteRead w).lrcValue = s.lrcValue ∧ (s.noteRead w).timeoutArg = s.timeoutArg ∧
    (s.noteRead w).bufLen = s.bufLen ∧ (s.noteRead w).buf = s.buf ∧
    (s.noteRead w).ask = s.ask ∧ (s.noteRead w).resp = s.resp ∧
    (s.noteRead w).engine = s.engine ∧ (s.noteRead w).savedTimeout = s.savedTimeout ∧
    (s.noteRead w).toSaved = s.toSaved ∧ (s.noteRead w).expN = s.expN ∧
    (s.noteRead w).rxCount = s.rxCount ∧ (s.noteRead w).rdGot = s.rdGot ∧
    (s.noteRead w).rdByte = s.rdByte ∧ (s.noteRead w).eotOk = s.eotOk ∧
    (s.noteRead w).eotGot = s.eotGot ∧ (s.noteRead w).eotByte = s.eotByte ∧
    (s.noteRead w).txLog = s.txLog ∧ (s.noteRead w).rxQ = s.rxQ ∧
    (s.noteRead w).tTimeout = s.tTimeout ∧ (s.noteRead w).faults = (if w then s.faults else s.faults.record .unwritten) ∧
    (s.noteRead w).draws = (if w then s.draws else s.draws + 1) ∧ (s.noteRead w).schedule = s.schedule ∧
    (s.noteRead w).program = s.program ∧ (s.noteRead w).callerPc = s.callerPc ∧
    (s.noteRead w).rdata = s.rdata := by
  unfold State.noteRead
  refine ⟨?_, ?_, ?_, ?_, ?_, ?_, ?_, ?_, ?_, ?_, ?_, ?_, ?_, ?_, ?_, ?_, ?_, ?_, ?_, ?_, ?_, ?_, ?_, ?_, ?_, ?_, ?_, ?_, ?_, ?_, ?_⟩ <;> (try split) <;> rfl

@[simp] theorem State.noteEot_fields (s : State) :
    s.noteEot.params = s.params ∧ s.noteEot.ctrl = s.ctrl ∧
    s.noteEot.status = s.status ∧ s.noteEot.err = (if s.eotOk then s.err else { s.err with eotMissing := true }) ∧
    s.noteEot.errInfo0 = s.errInfo0 ∧ s.noteEot.errInfo1 = s.errInfo1 ∧
    s.noteEot.lrcValue = s.lrcValue ∧ s.noteEot.timeoutArg = s.timeoutArg ∧
    s.noteEot.bufLen = s.bufLen ∧ s.noteEot.buf = s.buf ∧
    s.noteEot.ask = s.ask ∧ s.noteEot.resp = s.resp ∧
    s.noteEot.engine = s.engine ∧ s.noteEot.savedTimeout = s.savedTimeout ∧
    s.noteEot.toSaved = s.toSaved ∧ s.noteEot.expN = s.expN ∧
    s.noteEot.rxCount = s.rxCount ∧ s.noteEot.rdGot = s.rdGot ∧
    s.noteEot.rdByte = s.rdByte ∧ s.noteEot.eotOk = s.eotOk ∧
    s.noteEot.eotGot = s.eotGot ∧ s.noteEot.eotByte = s.eotByte ∧
    s.noteEot.txLog = s.txLog ∧ s.noteEot.rxQ = s.rxQ ∧
    s.noteEot.tTimeout = s.tTimeout ∧ s.noteEot.faults = s.faults ∧
    s.noteEot.draws = s.draws ∧ s.noteEot.schedule = s.schedule ∧
    s.noteEot.program = s.program ∧ s.noteEot.callerPc = s.callerPc ∧
    s.noteEot.rdata = s.rdata := by
  unfold State.noteEot
  refine ⟨?_, ?_, ?_, ?_, ?_, ?_, ?_, ?_, ?_, ?_, ?_, ?_, ?_, ?_, ?_, ?_, ?_, ?_, ?_, ?_, ?_, ?_, ?_, ?_, ?_, ?_, ?_, ?_, ?_, ?_, ?_⟩ <;> (try split) <;> rfl

@[simp] theorem State.restoreTimeout_fields (s : State) :
    s.restoreTimeout.params = s.params ∧ s.restoreTimeout.ctrl = s.ctrl ∧
    s.restoreTimeout.status = s.status ∧ s.restoreTimeout.err = s.err ∧
    s.restoreTimeout.errInfo0 = s.errInfo0 ∧ s.restoreTimeout.errInfo1 = s.errInfo1 ∧
    s.restoreTimeout.lrcValue = s.lrcValue ∧ s.restoreTimeout.timeoutArg = s.timeoutArg ∧
    s.restoreTimeout.bufLen = s.bufLen ∧ s.restoreTimeout.buf = s.buf ∧
    s.restoreTimeout.ask = s.ask ∧ s.restoreTimeout.resp = s.resp ∧
    s.restoreTimeout.engine = s.engine ∧ s.restoreTimeout.savedTimeout = s.savedTimeout ∧
    s.restoreTimeout.toSaved = s.toSaved ∧ s.restoreTimeout.expN = s.expN ∧
    s.restoreTimeout.rxCount = s.rxCount ∧ s.restoreTimeout.rdGot = s.rdGot ∧
    s.restoreTimeout.rdByte = s.rdByte ∧ s.restoreTimeout.eotOk = s.eotOk ∧
    s.restoreTimeout.eotGot = s.eotGot ∧ s.restoreTimeout.eotByte = s.eotByte ∧
    s.restoreTimeout.txLog = s.txLog ∧ s.restoreTimeout.rxQ = s.rxQ ∧
    s.restoreTimeout.tTimeout = (if s.toSaved then s.timeoutAt savedTimeoutLocation s.savedTimeout else s.tTimeout) ∧ s.restoreTimeout.faults = (if s.toSaved then s.noteRead s.savedTimeout.written else s).faults ∧
    s.restoreTimeout.draws = (if s.toSaved then s.noteRead s.savedTimeout.written else s).draws ∧ s.restoreTimeout.schedule = s.schedule ∧
    s.restoreTimeout.program = s.program ∧ s.restoreTimeout.callerPc = s.callerPc ∧
    s.restoreTimeout.rdata = s.rdata := by
  unfold State.restoreTimeout State.noteRead
  refine ⟨?_, ?_, ?_, ?_, ?_, ?_, ?_, ?_, ?_, ?_, ?_, ?_, ?_, ?_, ?_, ?_, ?_, ?_, ?_, ?_, ?_, ?_, ?_, ?_, ?_, ?_, ?_, ?_, ?_, ?_, ?_⟩ <;> (try split) <;> (try split) <;> rfl

@[simp] theorem State.finish_fields (s : State) (o : CmdOutcome) (c : ErrCode) (i0 i1 : Byte) :
    (s.finish o c i0 i1).params = s.params ∧ (s.finish o c i0 i1).ctrl = s.ctrl ∧
    (s.finish o c i0 i1).status = s.status.finished o ∧ (s.finish o c i0 i1).err = { s.err with code := c } ∧
    (s.finish o c i0 i1).errInfo0 = i0 ∧ (s.finish o c i0 i1).errInfo1 = i1 ∧
    (s.finish o c i0 i1).lrcValue = s.lrcValue ∧ (s.finish o c i0 i1).timeoutArg = s.timeoutArg ∧
    (s.finish o c i0 i1).bufLen = s.bufLen ∧ (s.finish o c i0 i1).buf = s.buf ∧
    (s.finish o c i0 i1).ask = s.ask ∧ (s.finish o c i0 i1).resp = s.resp ∧
    (s.finish o c i0 i1).engine = .idle ∧ (s.finish o c i0 i1).savedTimeout = s.savedTimeout ∧
    (s.finish o c i0 i1).toSaved = false ∧ (s.finish o c i0 i1).expN = s.expN ∧
    (s.finish o c i0 i1).rxCount = s.rxCount ∧ (s.finish o c i0 i1).rdGot = s.rdGot ∧
    (s.finish o c i0 i1).rdByte = s.rdByte ∧ (s.finish o c i0 i1).eotOk = s.eotOk ∧
    (s.finish o c i0 i1).eotGot = s.eotGot ∧ (s.finish o c i0 i1).eotByte = s.eotByte ∧
    (s.finish o c i0 i1).txLog = s.txLog ∧ (s.finish o c i0 i1).rxQ = s.rxQ ∧
    (s.finish o c i0 i1).tTimeout = s.restoreTimeout.tTimeout ∧ (s.finish o c i0 i1).faults = s.restoreTimeout.faults ∧
    (s.finish o c i0 i1).draws = s.restoreTimeout.draws ∧ (s.finish o c i0 i1).schedule = s.schedule ∧
    (s.finish o c i0 i1).program = s.program ∧ (s.finish o c i0 i1).callerPc = s.callerPc ∧
    (s.finish o c i0 i1).rdata = s.rdata := by
  simp [State.finish]

@[simp] theorem State.raise_fields (s : State) (f : Failure) :
    (s.raise f).params = s.params ∧ (s.raise f).ctrl = s.ctrl ∧
    (s.raise f).status = s.status.finished .error ∧ (s.raise f).err = { s.err with code := f.code } ∧
    (s.raise f).errInfo0 = f.info0 ∧ (s.raise f).errInfo1 = f.info1 ∧
    (s.raise f).lrcValue = s.lrcValue ∧ (s.raise f).timeoutArg = s.timeoutArg ∧
    (s.raise f).bufLen = s.bufLen ∧ (s.raise f).buf = s.buf ∧
    (s.raise f).ask = s.ask ∧ (s.raise f).resp = s.resp ∧
    (s.raise f).engine = .idle ∧ (s.raise f).savedTimeout = s.savedTimeout ∧
    (s.raise f).toSaved = false ∧ (s.raise f).expN = s.expN ∧
    (s.raise f).rxCount = s.rxCount ∧ (s.raise f).rdGot = s.rdGot ∧
    (s.raise f).rdByte = s.rdByte ∧ (s.raise f).eotOk = s.eotOk ∧
    (s.raise f).eotGot = s.eotGot ∧ (s.raise f).eotByte = s.eotByte ∧
    (s.raise f).txLog = s.txLog ∧ (s.raise f).rxQ = s.rxQ ∧
    (s.raise f).tTimeout = s.restoreTimeout.tTimeout ∧ (s.raise f).faults = s.restoreTimeout.faults ∧
    (s.raise f).draws = s.restoreTimeout.draws ∧ (s.raise f).schedule = s.schedule ∧
    (s.raise f).program = s.program ∧ (s.raise f).callerPc = s.callerPc ∧
    (s.raise f).rdata = s.rdata := by
  simp [State.finish, State.raise]

end Sys2Proof.Machine
end

