-- ==== Sys2Proof/Laws/Memory.lean ====
section
/-! SUPPORT. The laws of BUF as a memory: read after write, the canonical form and the bound are kept, and what MemWrite and MemRead of a sequence do. -/

namespace Sys2Proof.Machine

theorem Memory.read_write (m : Memory) (k j : Nat) (v : Byte) :
    (Memory.write m k v).read j = if j = k then some v else m.read j := by
  induction m with
  | nil => simp [Memory.write, Memory.read]
  | cons c m ih =>
    obtain ⟨a, b⟩ := c
    simp only [Memory.write]
    split
    · simp [Memory.read]
    · split
      · subst_vars
        simp [Memory.read]
        split <;> simp_all
      · simp only [Memory.read, ih]
        split <;> split <;> first | rfl | omega

@[simp] theorem Memory.read_write_same (m : Memory) (k : Nat) (v : Byte) :
    (Memory.write m k v).read k = some v := by simp [Memory.read_write]

theorem Memory.read_write_other (m : Memory) {k j : Nat} (v : Byte) (h : j ≠ k) :
    (Memory.write m k v).read j = m.read j := by simp [Memory.read_write, h]

/-- Every entry of a written memory is the new one or an old one. -/
theorem Memory.mem_write {m : Memory} {k : Nat} {v : Byte} {c : Host.Cell}
    (h : c ∈ Memory.write m k v) : c = (k, v) ∨ c ∈ m := by
  induction m with
  | nil => simpa [Memory.write] using h
  | cons d m ih =>
    obtain ⟨a, b⟩ := d
    simp only [Memory.write] at h
    split at h
    · simpa using h
    · split at h
      · subst_vars
        rcases List.mem_cons.mp h with rfl | h
        · exact .inl rfl
        · exact .inr (List.mem_cons_of_mem _ h)
      · rcases List.mem_cons.mp h with rfl | h
        · exact .inr List.mem_cons_self
        · exact (ih h).imp_right (List.mem_cons_of_mem _)

/-- A write keeps the canonical form. -/
theorem Memory.wf_write {m : Memory} (h : m.wf) (k : Nat) (v : Byte) : (Memory.write m k v).wf := by
  induction m with
  | nil => simp [Memory.write, Memory.wf]
  | cons c m ih =>
    obtain ⟨a, b⟩ := c
    obtain ⟨hc, hm⟩ := List.pairwise_cons.mp h
    simp only [Memory.write]
    split
    · refine List.pairwise_cons.mpr ⟨?_, h⟩
      intro d hd
      rcases List.mem_cons.mp hd with rfl | hd
      · assumption
      · exact Nat.lt_trans ‹k < a› (hc d hd)
    · split
      · exact List.pairwise_cons.mpr ⟨hc, hm⟩
      · refine List.pairwise_cons.mpr ⟨?_, ih hm⟩
        intro d hd
        rcases Memory.mem_write hd with rfl | hd
        · show a < k
          omega
        · exact hc d hd

/-- A write below the bound keeps the bound. -/
theorem Memory.within_write {m : Memory} {cap k : Nat} (h : m.within cap) (hk : k < cap) (v : Byte) :
    (Memory.write m k v).within cap := by
  intro c hc
  rcases Memory.mem_write hc with rfl | hc
  · exact hk
  · exact h c hc

/-- `MemWrite(k, len(bs), bs)` makes exactly the bytes from `k` on read as `bs`. -/
theorem Memory.read_writeAll (m : Memory) (k j : Nat) (bs : List Byte) :
    (Memory.writeAll m k bs).read j =
      if k ≤ j ∧ j < k + bs.length then bs[j - k]? else m.read j := by
  induction bs generalizing m k with
  | nil => simp [Memory.writeAll]
  | cons b bs ih =>
    simp only [Memory.writeAll, ih, Memory.read_write, List.length_cons]
    by_cases h : j = k
    · subst h; simp
    · by_cases h2 : k + 1 ≤ j ∧ j < k + 1 + bs.length
      · have e : j - k = (j - (k + 1)) + 1 := by omega
        rw [if_pos h2, if_pos (by omega), e, List.getElem?_cons_succ]
      · rw [if_neg h2, if_neg h, if_neg (by omega)]

theorem Memory.wf_writeAll {m : Memory} (h : m.wf) (k : Nat) (bs : List Byte) :
    (Memory.writeAll m k bs).wf := by
  induction bs generalizing m k with
  | nil => exact h
  | cons b bs ih => exact ih (Memory.wf_write h k b) (k + 1)

theorem Memory.within_writeAll {m : Memory} {cap k : Nat} (h : m.within cap) (bs : List Byte)
    (hk : k + bs.length ≤ cap) : (Memory.writeAll m k bs).within cap := by
  induction bs generalizing m k with
  | nil => exact h
  | cons b bs ih =>
    simp only [List.length_cons] at hk
    exact ih (Memory.within_write h (by omega) b) (by omega)

/-- BUF is in its canonical form at launch, with nothing listed (R231). -/
theorem Memory.wf_launch (p : Params) (q : List Byte) : (State.launch p q).buf.wf := .nil

/-- A frame stored from index 0 reads back, and every other byte reads as before. -/
theorem Memory.storedFrame_writeAll (m : Memory) (f : List Byte) :
    Memory.storedFrame m (Memory.writeAll m 0 f) f :=
  ⟨fun k hk => by simp [Memory.read_writeAll, hk],
   fun k hk => by simp [Memory.read_writeAll, Nat.not_lt.mpr hk]⟩

@[simp] theorem State.bufBytes_length (s : State) (n : Nat) : (s.bufBytes n).length = n := by
  simp [State.bufBytes]

/-- MemRead of bytes that are all written gives them. -/
theorem State.bufBytes_of_holds {s : State} {bs : List Byte} (h : s.holds bs) :
    s.bufBytes bs.length = bs := by
  apply List.ext_getElem (by simp)
  intro k h1 h2
  have := h k h2
  simp [State.bufBytes, State.bufByte, this, h2]

theorem State.bufWritten_of_holds {s : State} {bs : List Byte} (h : s.holds bs) :
    s.bufWritten bs.length = true := by
  simp only [State.bufWritten, List.all_eq_true, List.mem_range]
  intro k hk
  simp [h k hk, hk]

/-- One unwritten byte among the first `n` is enough for the read of them to be noted (R43). -/
theorem State.bufWritten_eq_false {s : State} {n k : Nat} (hk : k < n) (h : s.buf.read k = none) :
    s.bufWritten n = false := by
  rw [Bool.eq_false_iff]
  intro hw
  simp only [State.bufWritten, List.all_eq_true, List.mem_range] at hw
  simpa [h] using hw k hk

/-- The input of a command whose input bytes are all written. -/
theorem State.input_of_inputIs {s : State} {f : List Byte} (h : s.inputIs f) : s.input = f := by
  rw [State.input, h.1, State.bufBytes_of_holds h.2]

theorem State.noteInput_of_inputIs {s : State} {f : List Byte} (h : s.inputIs f) :
    s.noteInput = s := by
  rw [State.noteInput, h.1, State.bufWritten_of_holds h.2]
  rfl

end Sys2Proof.Machine
end

