-- ==== Sys2Proof/Laws/Bytes.lean ====
section
/-! SUPPORT. Laws of the byte-sequence functions and of byte-array registers: lengths, the XOR fold, digit checks, values of registers that are written. -/

namespace Sys2Proof.Machine

@[simp] theorem slice_length (s : List Byte) (a b : Nat) :
    (slice s a b).length = min (b - a) (s.length - a) := by simp [slice]

/-- The fold is the accumulator's left fold from its start value. -/
theorem foldl_xor (s : List Byte) (x : Byte) : s.foldl (· ^^^ ·) x = x ^^^ xorFold s := by
  induction s generalizing x with
  | nil => simp [xorFold]
  | cons b s ih => simp [xorFold, ih, BitVec.xor_assoc]

theorem xorFold_eq_foldl (s : List Byte) : xorFold s = s.foldl (· ^^^ ·) 0 := by
  simp [foldl_xor]

theorem xorFold_append (s t : List Byte) : xorFold (s ++ t) = xorFold s ^^^ xorFold t := by
  induction s with
  | nil => simp [xorFold]
  | cons b s ih => simp [xorFold, ih, BitVec.xor_assoc]

/-- A frame of three bytes or more, taken apart: the checked range is what lies between its first and last byte. -/
theorem lrcComputed_cons (a : Byte) (p : List Byte) (c : Byte) :
    lrcComputed (a :: (p ++ [c])) = xorFold p := by
  simp [lrcComputed, slice]

theorem lrcReceived_cons (a : Byte) (p : List Byte) (c : Byte) :
    lrcReceived (a :: (p ++ [c])) = c := by
  simp [lrcReceived, at_]

theorem lrcOk_cons (a : Byte) (p : List Byte) (c : Byte) (h : p ≠ []) :
    lrcOk (a :: (p ++ [c])) = (xorFold p == c) := by
  have : 0 < p.length := List.length_pos_iff.mpr h
  rw [lrcOk, if_neg (by simp; omega), lrcComputed_cons, lrcReceived_cons]

theorem lrcOk_short (f : List Byte) (h : f.length < 3) : lrcOk f = false := by
  simp [lrcOk, h]

/-- `strip` takes off the first byte and the last two. -/
theorem strip_cons (a : Byte) (p : List Byte) (b c : Byte) : strip (a :: (p ++ [b, c])) = p := by
  simp [strip, slice]

@[simp] theorem decDigits_length (n v : Nat) : (decDigits n v).length = n := by simp [decDigits]

/-- The digit check of a sequence passes exactly when every byte is a digit. -/
theorem firstNonDigit_eq_none (s : List Byte) (base : Nat) :
    firstNonDigit s base = none ↔ digitsOk s = true := by
  induction s generalizing base with
  | nil => simp [firstNonDigit, digitsOk]
  | cons b s ih =>
    simp only [firstNonDigit, digitsOk, List.all_cons, Bool.and_eq_true]
    split
    · rw [ih]; simp_all [digitsOk]
    · simp_all

/-- What the digit check reports: a byte that is no digit, all bytes before it being digits. -/
theorem firstNonDigit_eq_some {s : List Byte} {base k : Nat} :
    firstNonDigit s base = some k ↔
      ∃ j b, k = base + j ∧ s[j]? = some b ∧ isDigit b = false ∧
        ∀ i c, i < j → s[i]? = some c → isDigit c = true := by
  induction s generalizing base with
  | nil => simp [firstNonDigit]
  | cons b s ih =>
    simp only [firstNonDigit]
    split
    · rename_i hb
      rw [ih]
      constructor
      · rintro ⟨j, c, rfl, hc, hd, hlt⟩
        refine ⟨j + 1, c, by omega, by simpa using hc, hd, ?_⟩
        intro i d hi hid
        cases i with
        | zero => simp_all
        | succ i => exact hlt i d (by omega) (by simpa using hid)
      · rintro ⟨j, c, rfl, hc, hd, hlt⟩
        cases j with
        | zero => simp_all
        | succ j =>
          refine ⟨j, c, by omega, by simpa using hc, hd, ?_⟩
          intro i d hi hid
          exact hlt (i + 1) d (by omega) (by simpa using hid)
    · rename_i hb
      constructor
      · intro h
        refine ⟨0, b, by simpa using h.symm, by simp, by simpa using hb, by omega⟩
      · rintro ⟨j, c, rfl, hc, hd, hlt⟩
        cases j with
        | zero => simp
        | succ j => exact absurd (hlt 0 b (by omega) (by simp)) hb

@[simp] theorem State.noteRead_true (s : State) : s.noteRead true = s := rfl

@[simp] theorem State.noteRead_false (s : State) : s.noteRead false = s.faulted := rfl

@[simp] theorem State.bitsAt_of {w : Nat} (s : State) (r i : Nat) (v : BitVec w) :
    s.bitsAt r i (Slot.of v) = v := rfl

theorem State.bitsAt_written {w : Nat} (s : State) (r i : Nat) {x : Slot (BitVec w)}
    (h : x.written = true) : s.bitsAt r i x = x.val := by simp [State.bitsAt, h]

theorem State.timeoutAt_written (s : State) (r : Nat) {x : Slot TimeoutVal}
    (h : x.written = true) : s.timeoutAt r x = x.val := by simp [State.timeoutAt, h]

/-- A written byte-array register reads as the values it holds. -/
theorem State.bytesAt_written {n : Nat} (s : State) (r : Nat) {x : ByteReg n}
    (h : x.written = true) : s.bytesAt r x = x.values := by
  apply List.ext_getElem (by simp [State.bytesAt, ByteReg.values])
  intro k h1 h2
  simp only [ByteReg.written, List.all_eq_true] at h
  simp only [State.bytesAt, ByteReg.values, List.getElem_map, List.getElem_zipIdx]
  exact State.bitsAt_written _ _ _ (h _ (List.getElem_mem _))

@[simp] theorem State.bytesAt_length {n : Nat} (s : State) (r : Nat) (x : ByteReg n) :
    (s.bytesAt r x).length = n := by simp [State.bytesAt]

@[simp] theorem ByteReg.values_length {n : Nat} (x : ByteReg n) : x.values.length = n := by
  simp [ByteReg.values]

@[simp] theorem ByteReg.written_ofBytes (n : Nat) (bs : List Byte) :
    (ByteReg.ofBytes n bs).written = true := by
  simp [ByteReg.written, ByteReg.ofBytes, Slot.of]

theorem ByteReg.values_ofBytes {n : Nat} {bs : List Byte} (h : bs.length = n) :
    (ByteReg.ofBytes n bs).values = bs := by
  subst h
  apply List.ext_getElem (by simp)
  intro k h1 h2
  simp [ByteReg.values, ByteReg.ofBytes, Slot.of, at_]

/-- A written byte-array register is the register of its values. -/
theorem ByteReg.ofBytes_values {n : Nat} {x : ByteReg n} (h : x.written = true) :
    ByteReg.ofBytes n x.values = x := by
  simp only [ByteReg.written, List.all_eq_true] at h
  apply Vector.ext
  intro k hk
  have := h x[k] (by simp)
  simp only [ByteReg.ofBytes, Vector.getElem_ofFn, at_, ByteReg.values, Slot.of]
  cases hx : x[k]
  simp_all

@[simp] theorem AskBlock.written_ofVal (v : AskVal) : (AskBlock.ofVal v).written = true := by
  simp [AskBlock.written, AskBlock.ofVal, Slot.of]

/-- The ten registers of a written ASK block, one by one. -/
theorem AskBlock.written_iff (a : AskBlock) : a.written = true ↔
    a.pos.written = true ∧ a.mant.written = true ∧ a.scale.written = true ∧
    a.answerFlag.written = true ∧ a.paymentMode.written = true ∧
    a.transactionType.written = true ∧ a.currency.written = true ∧ a.priv.written = true ∧
    a.delay.written = true ∧ a.auth.written = true := by
  simp [AskBlock.written, and_assoc]

/-- A written ASK block reads as the values it holds. -/
theorem State.askVal_written (s : State) (h : s.ask.written = true) : s.askVal =
    { pos := s.ask.pos.values, mant := s.ask.mant.val, scale := s.ask.scale.val
      answerFlag := s.ask.answerFlag.val, paymentMode := s.ask.paymentMode.val
      transactionType := s.ask.transactionType.val, currency := s.ask.currency.values
      priv := s.ask.priv.values, delay := s.ask.delay.values, auth := s.ask.auth.values } := by
  obtain ⟨h1, h2, h3, h4, h5, h6, h7, h8, h9, h10⟩ := (AskBlock.written_iff _).mp h
  simp [State.askVal, State.bytesAt_written, State.bitsAt_written, *]

/-- An Ask payload is 34 bytes long, so the length check of enc_ask always passes (R125). -/
theorem askPayload_length (s : State) (c : Nat) : (askPayload s.askVal c).length = 34 := by
  simp [askPayload, State.askVal, Config.amountDigits]

@[simp] theorem frame_length (p : List Byte) : (frame p).length = p.length + 3 := by
  simp [frame]

end Sys2Proof.Machine
end

