-- ==== Sys2Proof/Laws/Ops.lean ====
section
/-! SUPPORT. What each shared operation does, said once: acceptance, finish, raise, the command wrapper, the codec's failures. Proofs about instructions cite these and unfold no operation. -/

namespace Sys2Proof.Machine

/-- With SAVED_TIMEOUT written where it is needed, `finish` draws nothing and records no fault. -/
theorem State.finish_eq_ended {s : State} (h : s.savedOk) (o : CmdOutcome) (c : ErrCode)
    (i0 i1 : Byte) : s.finish o c i0 i1 = s.ended o c i0 i1 := by
  cases hs : s.toSaved with
  | false => simp [State.finish, State.restoreTimeout, State.ended, Status.finished, hs]
  | true =>
    have := h hs
    simp [State.finish, State.restoreTimeout, State.ended, Status.finished, hs, this,
      State.timeoutAt]

theorem State.raise_eq_ended {s : State} (h : s.savedOk) (f : Failure) :
    s.raise f = s.ended .error f.code f.info0 f.info1 := State.finish_eq_ended h ..

/-- `finish` where no timeout is saved. -/
theorem State.finish_unsaved {s : State} (h : s.toSaved = false) (o : CmdOutcome) (c : ErrCode)
    (i0 i1 : Byte) : s.finish o c i0 i1 =
      { s with
        status := s.status.finished o, err := { s.err with code := c }
        errInfo0 := i0, errInfo1 := i1, toSaved := false, engine := .idle } := by
  simp [State.finish, State.restoreTimeout, h]

/-- A command written with BUSY = 0 runs its accept step in the accepted state. -/
theorem State.command_idle {s : State} (h : s.status.busy = false) (f : State → State) :
    s.command f = f s.accept := by simp [State.command, h]

/-- A command written with BUSY = 1 is refused. -/
theorem State.command_busy {s : State} (h : s.status.busy = true) (f : State → State) :
    s.command f = s.busyWrite := by simp [State.command, h]

theorem State.accept_eq_begun (s : State) : s.accept = s.begun := rfl

/-- Acceptance and finish in one step. -/
theorem State.finish_accept (s : State) (o : CmdOutcome) (c : ErrCode) (i0 i1 : Byte) :
    s.accept.finish o c i0 i1 = s.completed o c i0 i1 := by
  rw [State.finish_unsaved (by simp)]
  rfl

theorem State.raise_accept (s : State) (f : Failure) :
    s.accept.raise f = s.completed .error f.code f.info0 f.info1 := State.finish_accept ..

@[simp] theorem State.inputIs_accept {s : State} {f : List Byte} :
    s.accept.inputIs f ↔ s.inputIs f := Iff.rfl

@[simp] theorem State.askVal_accept (s : State) : s.accept.askVal = s.askVal := rfl

@[simp] theorem State.respVal_accept (s : State) : s.accept.respVal = s.respVal := rfl

@[simp] theorem State.respReportLen_accept (s : State) : s.accept.respReportLen = s.respReportLen := rfl

@[simp] theorem State.respReadsWritten_accept (s : State) :
    s.accept.respReadsWritten = s.respReadsWritten := rfl

/-- The codes with which the codec's functions fail. -/
theorem amountCents_error {m s : Nat} {e : Failure} (h : amountCents m s = .error e) :
    e = .amount := by
  unfold amountCents centsInRange at h
  split at h <;> (try split at h) <;> (try split at h) <;> simp_all

theorem encAsk_error {a : AskVal} {e : Failure} (h : encAsk a = .error e) :
    e.code = .amountOutOfRange ∨ e.code = .lengthMismatch := by
  unfold encAsk at h
  split at h
  · rename_i e' he
    cases h
    exact .inl (by rw [amountCents_error he]; rfl)
  · split at h
    · cases h
      exact .inr rfl
    · cases h

theorem digitFailure_code {p : List Byte} {fs : List (Nat × Nat)} {e : Failure}
    (h : digitFailure p fs = some e) : e.code = .fieldFormatError := by
  induction fs with
  | nil => simp [digitFailure] at h
  | cons f fs ih =>
    obtain ⟨a, b⟩ := f
    simp only [digitFailure] at h
    split at h
    · cases h; rfl
    · exact ih h

theorem Failure.checksum_code (f : List Byte) : (Failure.checksum f).code = .checksumMismatch := by
  unfold Failure.checksum
  split <;> rfl

theorem decAsk_error {f : List Byte} {e : Failure} (h : decAsk f = .error e) :
    e.code = .checksumMismatch ∨ e.code = .lengthMismatch ∨ e.code = .fieldFormatError := by
  unfold decAsk at h
  split at h
  · cases h; exact .inl (Failure.checksum_code f)
  · split at h
    · cases h; exact .inr (.inl rfl)
    · split at h
      · cases h; exact .inr (.inr (digitFailure_code ‹_›))
      · cases h

theorem decResp_error {f : List Byte} {e : Failure} (h : decResp f = .error e) :
    e.code = .checksumMismatch ∨ e.code = .lengthMismatch ∨ e.code = .fieldFormatError := by
  unfold decResp at h
  split at h
  · cases h; exact .inl (Failure.checksum_code f)
  · split at h
    · cases h; exact .inr (.inl rfl)
    · split at h
      · cases h; exact .inr (.inr (digitFailure_code ‹_›))
      · cases h

theorem encResp_error {l : Nat} {v : RespVal} {e : Failure} (h : encResp l v = .error e) :
    e.code = .lengthMismatch ∨ e.code = .fieldFormatError ∨ e.code = .amountOutOfRange := by
  unfold encResp at h
  split at h
  · cases h; exact .inl rfl
  · split at h
    · cases h; exact .inr (.inl rfl)
    · split at h
      · cases h; exact .inr (.inr rfl)
      · cases h

/-- The frame enc_ask builds is 37 bytes long. -/
theorem encAsk_length {s : State} {f : List Byte} (h : encAsk s.askVal = .ok f) :
    f.length = 37 := by
  unfold encAsk at h
  split at h
  · cases h
  · split at h
    · cases h
    · cases h
      simp [askPayload_length]

/-- Of a State's Ask, enc_ask can only fail on the amount: the length check never fails (R125). -/
theorem encAsk_error_amount {s : State} {e : Failure} (h : encAsk s.askVal = .error e) :
    e = .amount := by
  unfold encAsk at h
  split at h
  · cases h
    exact amountCents_error ‹_›
  · simp [askPayload_length] at h

/-- A frame put in BUF is held there. -/
theorem State.putFrame_holds (s : State) (f : List Byte) : (s.putFrame f).holds f :=
  (Memory.storedFrame_writeAll s.buf f).1

end Sys2Proof.Machine
end

