-- ==== Sys2Proof/Laws/Step.lean ====
section
/-! SUPPORT. What a step does, turn by turn: the ENGINE's deliver, timeout and internal steps, the CALLER's accesses, the terminal's byte, reset. -/

namespace Sys2Proof.Machine

/-- A wire control byte as an instruction is the delivery of its byte. -/
theorem exec_wire {i : Instr} (h : i.format = .wire8) (s : State) :
    exec i s = .next (deliver i.byte s) := by
  cases i <;> first | rfl | (exact absurd h (by decide))

/-- Each of the 256 byte values is a control byte, whose instruction has that byte, or plain data. -/
theorem decodeWire_cases (b : Byte) :
    (∃ i : Instr, decodeWire b = .ok i ∧ i.format = .wire8 ∧ i.byte = b) ∨
      decodeWire b = .error .plainByte := by
  unfold decodeWire
  split
  · exact .inl ⟨.stx, rfl, rfl, BitVec.eq_of_toNat_eq (Eq.symm ‹_›)⟩
  · exact .inl ⟨.etx, rfl, rfl, BitVec.eq_of_toNat_eq (Eq.symm ‹_›)⟩
  · exact .inl ⟨.eot, rfl, rfl, BitVec.eq_of_toNat_eq (Eq.symm ‹_›)⟩
  · exact .inl ⟨.enq, rfl, rfl, BitVec.eq_of_toNat_eq (Eq.symm ‹_›)⟩
  · exact .inl ⟨.ack, rfl, rfl, BitVec.eq_of_toNat_eq (Eq.symm ‹_›)⟩
  · exact .inl ⟨.nak, rfl, rfl, BitVec.eq_of_toNat_eq (Eq.symm ‹_›)⟩
  · exact .inr rfl

/-- The ENGINE's turn with a read pending and a byte at hand delivers it, whatever the byte. -/
theorem engineTurn_deliver {s : State} {b : Byte} {q : List Byte} (h : s.engine.readWait = true)
    (hq : s.rxQ = b :: q) :
    (match engineTurn s with
      | .instr i t => exec i t
      | .done t => .next t
      | .refused r => .refused r) = Host.Outcome.next (deliver b { s with rxQ := q }) := by
  unfold engineTurn
  rw [if_pos h, hq]
  rcases decodeWire_cases b with ⟨i, hi, hf, rfl⟩ | hb
  · simp only [decode, hi]
    exact exec_wire hf _
  · simp only [decode, hb]

theorem step_incoming {s : State} (b : Byte) (h : s.engine.readWait = true) :
    step (s.incoming b) = .next (deliver b s) := by
  have := engineTurn_deliver (s := (s.incoming b).popTurn) (b := b) (q := s.rxQ)
    (by simpa [State.incoming, State.engineNext] using h) rfl
  exact this

theorem step_timeout {s : State} (h : s.engine.readWait = true) (hq : s.rxQ = []) :
    step s.engineNext = .next (timeoutStep s) := by
  have e : s.engineNext.popTurn = s := rfl
  have : fetch s.engineNext = .done (timeoutStep s) := by
    simp only [fetch, State.nextTurn, State.engineNext]
    show engineTurn s.engineNext.popTurn = _
    rw [e, engineTurn, if_pos h, hq]
  simp only [step, this]

theorem step_internal {s : State} (h : s.engine.readWait = false) :
    step s.engineNext = .next (internalStep s) := by
  have e : s.engineNext.popTurn = s := rfl
  have : fetch s.engineNext = .done (internalStep s) := by
    simp only [fetch, State.nextTurn, State.engineNext]
    show engineTurn s.engineNext.popTurn = _
    rw [e, engineTurn, if_neg (by simp [h])]
  simp only [step, this]

/-- With nothing scheduled and a command in progress the ENGINE has the turn. -/
theorem step_unscheduled {s : State} (h : s.schedule = []) (hi : s.engine ≠ .idle) :
    step s = step s.engineNext := by
  have : fetch s = fetch s.engineNext := by
    have e : s.popTurn = s.engineNext.popTurn := by
      simp only [State.popTurn, State.engineNext, List.tail_cons, h, List.tail_nil]
    have n1 : s.nextTurn = .engine := by simp [State.nextTurn, h, hi]
    have n2 : s.engineNext.nextTurn = .engine := rfl
    simp only [fetch, n1, n2, e]
  simp only [step, this]

/-- A scheduled CALLER access. -/
theorem step_access {s : State} {a : Access} {later : List Turn}
    (h : s.schedule = .access a :: later) :
    step s = (match accessTurn a { s with schedule := later } with
      | .instr i t => exec i t
      | .done t => .next t
      | .refused r => .refused r) := by
  have : fetch s = accessTurn a { s with schedule := later } := by
    simp [fetch, State.nextTurn, State.popTurn, h]
  unfold step
  rw [this]
  all_goals rfl

/-- A byte from the terminal goes to the end of RX_Q. -/
theorem step_terminal {s : State} {b : Byte} {later : List Turn}
    (h : s.schedule = .terminal b :: later) :
    step s = .next { s with schedule := later, rxQ := s.rxQ ++ [b] } := by
  simp [step, fetch, State.nextTurn, State.popTurn, h]

theorem step_reset {s : State} {later : List Turn} (h : s.schedule = .reset :: later) :
    step s = .next { s with schedule := later }.hardReset := by
  simp [step, fetch, State.nextTurn, State.popTurn, h]

/-- The machine behind the host's interface runs the same steps. -/
theorem runFor_eq_run (k : Nat) (s : State) : core.run k s = runFor k s := by
  induction k generalizing s with
  | zero => rfl
  | succ k ih =>
    have e : core.step s = step s := rfl
    simp only [Host.Core.run, runFor, e]
    cases step s with
    | next t => exact ih t
    | fault f => rfl
    | refused r => rfl

theorem runFor_succ {k : Nat} {s t : State} (h : step s = .next t) :
    runFor (k + 1) s = runFor k t := by simp only [runFor, h]

/-- A word that decodes as a command is a command, never a wire control byte. -/
theorem decode_cmd8_isCommand {c : Byte} {i : Instr} {rest : List Byte}
    (h : decode .cmd8 [c] = .ok (i, rest)) : i.isCommand = true := by
  simp only [decode] at h
  split at h
  · rename_i hd
    cases h
    unfold decodeCommand at hd
    split at hd
    · cases hd
    · split at hd
      · rename_i hc
        cases hd
        unfold commandOf at hc
        split at hc <;> cases hc <;> rfl
      · cases hd
  · cases h

/-- A command written while BUSY = 1 is refused, whichever it is. -/
theorem exec_busy {i : Instr} {s : State} (hi : i.isCommand = true) (hb : s.status.busy = true) :
    exec i s = .next s.busyWrite := by
  cases i <;> first
    | exact congrArg Host.Outcome.next (State.command_busy hb _)
    | exact absurd hi (by decide)

/-- The state a CALLER's access is made in: the turn taken, and where the access is a statement of the CALLER's program the position moved on. -/
def State.accessState (s u : State) : Prop := u = s.popTurn ∨ u = s.popTurn.callerNext

/-- Everything a step that answers a next state can have done. -/
inductive StepDid (s : State) : State → Prop where
  | deliver (b : Byte) (q : List Byte) (turn : s.nextTurn = .engine)
      (wait : s.engine.readWait = true) (hq : s.rxQ = b :: q) :
      StepDid s (deliver b { s.popTurn with rxQ := q })
  | timeout (turn : s.nextTurn = .engine) (wait : s.engine.readWait = true) (hq : s.rxQ = []) :
      StepDid s (timeoutStep s.popTurn)
  | internal (turn : s.nextTurn = .engine) (wait : s.engine.readWait = false) :
      StepDid s (internalStep s.popTurn)
  | command (i : Instr) (u t : State) (hi : i.isCommand = true) (hf : fetch s = .instr i u)
      (hu : s.accessState u) (turn : s.nextTurn ≠ .engine) (h : exec i u = .next t) : StepDid s t
  | illegal (c : Byte) (u : State) (hu : s.accessState u) (turn : s.nextTurn ≠ .engine) :
      StepDid s (u.illegalCommand c)
  | write (reg v : Nat) (u : State) (hu : s.accessState u) (turn : s.nextTurn ≠ .engine) :
      StepDid s (u.callerWrite reg v)
  | writeElem (reg i v : Nat) (u : State) (hu : s.accessState u) (turn : s.nextTurn ≠ .engine) :
      StepDid s (u.callerWriteElem reg i v)
  | read (reg : Nat) (u : State) (hu : s.accessState u) (turn : s.nextTurn ≠ .engine) :
      StepDid s (u.callerRead reg)
  | readElem (reg i : Nat) (u : State) (hu : s.accessState u) (turn : s.nextTurn ≠ .engine) :
      StepDid s (u.callerReadElem reg i)
  | branch (reg : Nat) (f : Option Field) (v l : Nat) (onEqual : Bool)
      (turn : s.nextTurn = .caller) : StepDid s (s.popTurn.branch reg f v l onEqual)
  | moved (pc : Nat) (turn : s.nextTurn = .caller) : StepDid s { s.popTurn with callerPc := pc }
  | terminal (b : Byte) (turn : s.nextTurn = .terminal b) :
      StepDid s { s.popTurn with rxQ := s.rxQ ++ [b] }
  | reset (turn : s.nextTurn = .reset) : StepDid s s.popTurn.hardReset

/-- What a CALLER's access did. -/
theorem accessTurn_did {s u t : State} {a : Access} (hu : s.accessState u)
    (turn : s.nextTurn ≠ .engine) (hf : fetch s = accessTurn a u) (h : step s = .next t) :
    StepDid s t := by
  unfold step at h
  rw [hf] at h
  unfold accessTurn at hf h
  split at h
  · rename_i i v e
    split at e
    · split at e
      · split at e
        · split at e
          · rename_i hd
            cases e
            have hd' := decode_cmd8_isCommand hd
            refine .command _ _ _ hd' ?_ hu turn h
            rw [hf]
            simp_all
          · cases e
        · cases e
      all_goals cases e
    · cases e
  · rename_i v e
    cases h
    split at e
    · split at e
      · split at e
        · split at e
          · cases e
          · cases e
            exact .illegal _ _ hu turn
        · cases e
          exact .write _ _ _ hu turn
      · cases e
        exact .writeElem _ _ _ _ hu turn
      · cases e
        exact .read _ _ hu turn
      · cases e
        exact .readElem _ _ _ hu turn
    · cases e
  · cases h

/-- What a statement of the CALLER's program did. -/
theorem stmtTurn_did {s t : State} {st : Stmt} (turn : s.nextTurn = .caller)
    (hf : fetch s = stmtTurn st s.popTurn) (h : step s = .next t) : StepDid s t := by
  cases st with
  | op a => exact accessTurn_did (.inr rfl) (by simp [turn]) hf h
  | label l =>
    rw [step, hf] at h
    cases h
    exact .moved _ turn
  | halt =>
    rw [step, hf] at h
    cases h
    exact .moved _ turn
  | jmp l =>
    rw [step, hf, stmtTurn] at h
    split at h
    · rename_i e
      split at e <;> cases e
    · rename_i e
      split at e <;> cases e
      cases h
      exact .moved _ turn
    · cases h
  | jeq reg f v l =>
    rw [step, hf, stmtTurn] at h
    split at h
    · rename_i e
      split at e <;> cases e
    · rename_i e
      split at e <;> cases e
      cases h
      exact .branch _ _ _ _ _ turn
    · cases h
  | jne reg f v l =>
    rw [step, hf, stmtTurn] at h
    split at h
    · rename_i e
      split at e <;> cases e
    · rename_i e
      split at e <;> cases e
      cases h
      exact .branch _ _ _ _ _ turn
    · cases h

/-- Every step that answers a next state did one of these things. -/
theorem step_did {s t : State} (h : step s = .next t) : StepDid s t := by
  cases turn : s.nextTurn with
  | engine =>
    by_cases w : s.engine.readWait = true
    · cases hq : s.rxQ with
      | nil =>
        have hf : fetch s = .done (timeoutStep s.popTurn) := by
          simp only [fetch, turn]
          rw [engineTurn, if_pos (by exact w)]
          have : s.popTurn.rxQ = [] := hq
          rw [this]
        rw [step, hf] at h
        cases h
        exact .timeout turn w hq
      | cons b q =>
        have := engineTurn_deliver (s := s.popTurn) (b := b) (q := q) w hq
        simp only [step, fetch, turn] at h
        have e := this.symm.trans h
        cases e
        exact .deliver b q turn w hq
    · have w : s.engine.readWait = false := by simpa using w
      have hf : fetch s = .done (internalStep s.popTurn) := by
        simp only [fetch, turn]
        rw [engineTurn, if_neg (by simpa using w)]
      rw [step, hf] at h
      cases h
      exact .internal turn w
  | caller =>
    have hf : fetch s = callerTurn s.popTurn := by simp only [fetch, turn]
    unfold callerTurn at hf
    split at hf
    · rw [step, hf] at h
      cases h
      exact .moved _ turn
    · exact stmtTurn_did turn hf h
  | access a =>
    exact accessTurn_did (a := a) (.inl rfl) (by simp [turn]) (by simp only [fetch, turn]) h
  | terminal b =>
    simp only [step, fetch, turn] at h
    cases h
    exact .terminal b turn
  | reset =>
    simp only [step, fetch, turn] at h
    cases h
    exact .reset turn

end Sys2Proof.Machine
end

