-- ==== Sys2Proof/Laws/Caller.lean ====
section
/-! SUPPORT. What a step in which a CALLER makes an access does (R22, R23, R43, R45): one law per kind of access, and what the read or write itself does with BUSY = 0. -/

namespace Sys2Proof.Machine

/-- Every register is the one its number names (R21). -/
@[simp] theorem Reg.ofNumber_number (r : Reg) : Reg.ofNumber r.number = some r := by
  cases r <;> decide

/-- A step that reads a whole register. -/
theorem step_read {s : State} {r : Reg} {later : List Turn} (ha : r.isArray = false)
    (h : s.schedule = .access (.read r.number) :: later) :
    step s = .next ({ s with schedule := later }.callerRead r.number) := by
  simp [step_access h, accessTurn, Access.wellFormed, ha]

/-- A step that reads an element of an array register. -/
theorem step_readElem {s : State} {r : Reg} {i : Nat} {later : List Turn} (ha : r.isArray = true)
    (h : s.schedule = .access (.readElem r.number i) :: later) :
    step s = .next ({ s with schedule := later }.callerReadElem r.number i) := by
  simp [step_access h, accessTurn, Access.wellFormed, ha]

/-- A step that writes a whole register other than CMD. -/
theorem step_write {s : State} {r : Reg} {v : Nat} {later : List Turn} (ha : r.isArray = false)
    (hc : r ≠ .cmd) (h : s.schedule = .access (.write r.number v) :: later) :
    step s = .next ({ s with schedule := later }.callerWrite r.number v) := by
  have hn : r.number ≠ Reg.cmd.number := by cases r <;> first | exact absurd rfl hc | decide
  simp [step_access h, accessTurn, Access.wellFormed, ha, hn]

/-- A step that writes an element of an array register. -/
theorem step_writeElem {s : State} {r : Reg} {i v : Nat} {later : List Turn}
    (ha : r.isArray = true) (h : s.schedule = .access (.writeElem r.number i v) :: later) :
    step s = .next ({ s with schedule := later }.callerWriteElem r.number i v) := by
  simp [step_access h, accessTurn, Access.wellFormed, ha]

/-- With BUSY = 0, or of STATUS, a read of a written register gives its value and changes nothing. -/
theorem State.callerRead_written {s : State} {r : Reg}
    (hb : s.status.busy = false ∨ r = .status) (hw : s.regWritten r = true) :
    s.callerRead r.number = { s with rdata := s.regValue r } := by
  unfold State.callerRead
  rw [Reg.ofNumber_number]
  dsimp only
  rw [if_neg (by rintro ⟨h1, h2⟩; rcases hb with hb | hb <;> simp_all), hw]
  rfl

/-- With BUSY = 0 a read of a written element gives its byte and changes nothing. -/
theorem State.callerReadElem_written {s : State} {r : Reg} {i : Nat} {b : Byte}
    (hb : s.status.busy = false) (hi : i < s.arrayLength r) (hw : s.elemSlot r i = Slot.of b) :
    s.callerReadElem r.number i = { s with rdata := b.toNat } := by
  unfold State.callerReadElem
  rw [Reg.ofNumber_number]
  dsimp only
  rw [if_neg (by omega), if_neg (by simp [hb]), hw]
  rfl

/-- With BUSY = 0 a write to a writable register stores the value. -/
theorem State.callerWrite_idle {s : State} {r : Reg} (v : Nat) (hb : s.status.busy = false)
    (hr : r.rights ≠ .readOnly) : s.callerWrite r.number v = s.storeReg r v := by
  simp [State.callerWrite, hr, hb]

/-- With BUSY = 0 a write to an element within range stores the byte. -/
theorem State.callerWriteElem_idle {s : State} {r : Reg} {i : Nat} (v : Nat)
    (hb : s.status.busy = false) (hi : i < s.arrayLength r) :
    s.callerWriteElem r.number i v = s.storeElem r i (BitVec.ofNat 8 v) := by
  simp [State.callerWriteElem, hb, Nat.not_le.mpr hi]

/-- An element put in range is there. -/
theorem ByteReg.slot_put_same {n : Nat} (x : ByteReg n) {i : Nat} (b : Byte) (hi : i < n) :
    (x.put i b).slot i = Slot.of b := by
  simp [ByteReg.slot, ByteReg.put, hi]

/-- Every other element stays. -/
theorem ByteReg.slot_put_other {n : Nat} (x : ByteReg n) {i j : Nat} (b : Byte) (h : j ≠ i) :
    (x.put i b).slot j = x.slot j := by
  simp [ByteReg.slot, ByteReg.put, h.symm]

/-- An element store stores that element. -/
theorem State.elemSlot_storeElem_same {s : State} {r : Reg} {i : Nat} (b : Byte)
    (ha : r.isArray = true) (hi : i < s.arrayLength r) :
    (s.storeElem r i b).elemSlot r i = Slot.of b := by
  cases r <;> simp [Reg.isArray, Reg.shape] at ha <;> simp [State.storeElem, State.elemSlot]
  all_goals exact ByteReg.slot_put_same _ _ hi

/-- An element store leaves the register's other elements. -/
theorem State.elemSlot_storeElem_other {s : State} {r : Reg} {i j : Nat} (b : Byte)
    (ha : r.isArray = true) (h : j ≠ i) : (s.storeElem r i b).elemSlot r j = s.elemSlot r j := by
  cases r <;> simp [Reg.isArray, Reg.shape] at ha <;>
    simp [State.storeElem, State.elemSlot, Memory.read_write_other _ _ h]
  all_goals exact ByteReg.slot_put_other _ _ h

/-- An element store changes that register alone. -/
theorem State.onlyChanged_storeElem (s : State) (r : Reg) (i : Nat) (b : Byte) :
    s.OnlyChanged (s.storeElem r i b) r := by
  constructor
  · intro q hq
    cases r <;> first
      | exact ⟨rfl, rfl, fun _ => rfl⟩
      | (cases q <;> first | exact absurd rfl hq | exact ⟨rfl, rfl, fun _ => rfl⟩)
  · cases r <;> rfl

/-- A register store changes that register alone. -/
theorem State.onlyChanged_storeReg (s : State) (r : Reg) (v : Nat) :
    s.OnlyChanged (s.storeReg r v) r := by
  constructor
  · intro q hq
    cases r <;> first
      | exact ⟨rfl, rfl, fun _ => rfl⟩
      | (cases q <;> first | exact absurd rfl hq | exact ⟨rfl, rfl, fun _ => rfl⟩)
  · cases r <;> rfl

end Sys2Proof.Machine
end

