-- ==== Sys2Proof/Laws/PerInstr.lean ====
section
/-! SUPPORT. What holds of each instruction as syntax, one lemma per constructor: an instruction is well formed, is one byte long, and a command is written to CMD with its reserved bits 0. -/

namespace Sys2Proof.Laws.OneByte

/-- R85 to R87, R89: well formed, one byte long, in the command format exactly when it is a command, and then with RSV = 0. -/
def Statement (i : Instr) : Prop :=
  i.wellFormed = true ∧ (encode i).length = 1 ∧ (i.format = .cmd8 ↔ i.isCommand = true) ∧
    (i.isCommand = true → rsvField i.byte = 0)

theorem lrc : Statement .lrc := by unfold Statement; decide
theorem lrcCheck : Statement .lrcCheck := by unfold Statement; decide
theorem encodeAsk : Statement .encodeAsk := by unfold Statement; decide
theorem decodeAsk : Statement .decodeAsk := by unfold Statement; decide
theorem decodeResponse : Statement .decodeResponse := by unfold Statement; decide
theorem encodeResponse : Statement .encodeResponse := by unfold Statement; decide
theorem send : Statement .send := by unfold Statement; decide
theorem receive : Statement .receive := by unfold Statement; decide
theorem enq : Statement .enq := by unfold Statement; decide
theorem ack : Statement .ack := by unfold Statement; decide
theorem nak : Statement .nak := by unfold Statement; decide
theorem eot : Statement .eot := by unfold Statement; decide
theorem stx : Statement .stx := by unfold Statement; decide
theorem etx : Statement .etx := by unfold Statement; decide

end Sys2Proof.Laws.OneByte
end

