-- ==== Sys2Proof/Tests/Slice0.lean ====
section
/-! SUPPORT. Tests: the well-formedness checks refuse ill-formed terms; each word decodes to its instruction; single steps whose expected results stand in spec file 95; and a witness for the hypotheses of each statement of Obligations.lean, clause by clause. -/

namespace Sys2Proof.Tests

open Sys2Proof Sys2Proof.Machine

/-! ## Helpers -/

/-- The outcome is a next state with this property. -/
def after (o : Host.Outcome State Fault Refusal) (p : State → Bool) : Bool :=
  match o with
  | .next t => p t
  | .fault _ => false
  | .refused _ => false

/-- A machine fresh from launch whose command input `BUF[0:BUF_LEN]` is `f`. -/
def withInput (f : List Byte) : State :=
  { State.reset with buf := Memory.writeAll [] 0 f, bufLen := BitVec.ofNat 16 f.length }

theorem withInput_holds (f : List Byte) : (withInput f).holds f :=
  (Memory.storedFrame_writeAll [] f).1

theorem withInput_inputIs (f : List Byte) (h : f.length < 65536) : (withInput f).inputIs f := by
  refine ⟨?_, withInput_holds f⟩
  simp only [withInput, BitVec.toNat_ofNat]
  omega

/-- The machine in a state of a conversation: BUSY, a timeout saved, and these bytes queued. -/
def inState (e : EngineState) (q : List Byte) : State :=
  { State.reset with
    engine := e, rxQ := q, toSaved := true, savedTimeout := Slot.of 7, tTimeout := 9,
    status := { Status.reset with busy := true } }

/-- The Ask of Scenario A with the amount (m, sc) (spec file 95, S-A). -/
def scenarioA (m sc : Nat) : AskVal :=
  { pos := [0x30, 0x31], mant := BitVec.ofNat 32 m, scale := BitVec.ofNat 4 sc
    answerFlag := 0x31, paymentMode := 0x31, transactionType := 0x30
    currency := [0x39, 0x37, 0x38], priv := List.replicate 10 0x20
    delay := [0x41, 0x30, 0x31, 0x30], auth := [0x42, 0x30, 0x31, 0x30] }

/-- A machine with the ASK block of Scenario A and a TIMEOUT_ARG. -/
def withAsk (m sc : Nat) : State :=
  { State.reset with ask := AskBlock.ofVal (scenarioA m sc), timeoutArg := Slot.of 5 }

/-- FA, the frame of Scenario A, copied from spec file 95. -/
def frameA : List Byte :=
  [0x02, 0x30, 0x31, 0x30, 0x30, 0x30, 0x30, 0x31, 0x32, 0x35, 0x30, 0x31, 0x31, 0x30, 0x39, 0x37] ++
  [0x38, 0x20, 0x20, 0x20, 0x20, 0x20, 0x20, 0x20, 0x20, 0x20, 0x20, 0x41, 0x30, 0x31, 0x30, 0x42] ++
  [0x30, 0x31, 0x30, 0x03, 0x01]

/-- The payload of F28, a limited Response, copied from spec file 95. -/
def payload25 : List Byte :=
  [0x30, 0x31, 0x30, 0x30, 0x30, 0x30, 0x30, 0x31, 0x32, 0x35, 0x30, 0x31, 0x39, 0x37, 0x38] ++
  [0x30, 0x30, 0x30, 0x30, 0x30, 0x30, 0x30, 0x30, 0x30, 0x31]

/-- F28 (spec file 95). -/
def frame28 : List Byte := 0x02 :: (payload25 ++ [0x03, 0x32])

/-- The payload of F83, a full Response (spec file 95). -/
def payload80 : List Byte :=
  payload25.take 12 ++
  [0x34, 0x39, 0x37, 0x30, 0x31, 0x30, 0x58, 0x58, 0x58, 0x58, 0x58, 0x58, 0x31, 0x32, 0x33, 0x34] ++
  List.replicate 39 0x20 ++ payload25.drop 12

/-- The Response of V-C5 (spec file 95), with the report of F83 or none. -/
def respA (result amount : Nat) (full : Bool) : RespVal :=
  { pos := [0x30, 0x31], result := BitVec.ofNat 4 result, amount := BitVec.ofNat 27 amount
    paymentMode := 0x31, report := if full then slice payload80 12 67 else []
    currency := [0x39, 0x37, 0x38], priv := List.replicate 9 0x30 ++ [0x31] }

/-- A machine holding that Response, with `len` in RESP_REPORT_LEN. -/
def withResp (result amount len : Nat) (full : Bool) : State :=
  { State.reset with
    resp := { RespBlock.reset.store (respA result amount full) with
              reportLen := Slot.of (BitVec.ofNat 6 len) } }

/-! ## Well-formedness: each check refuses an ill-formed term -/

/-- R8: equal answer flags. -/
theorem test_params_equal_flags_refused :
    Params.wellFormed { Params.launch with answerFlagFull := 0x30 } = false := by decide

/-- R8: BUF_CAP below 83. -/
theorem test_params_small_buffer_refused :
    Params.wellFormed { Params.launch with bufCap := 82 } = false := by decide

/-- R22: a whole write to the array register ASK_POS, and an element of ASK_AMT_MANT. -/
theorem test_access_of_the_wrong_kind_refused :
    (Access.write 0x10 1).wellFormed = false ∧ (Access.read 0x09).wellFormed = false ∧
    (Access.writeElem 0x11 0 1).wellFormed = false ∧
    (Access.readElem 0x00 0).wellFormed = false := by decide

/-- R98: a jump to a label the program lacks, and ERR's field taken from STATUS. -/
theorem test_statement_ill_formed_refused :
    (Stmt.jmp 1).wellFormed [.jmp 1, .label 2] = false ∧
    (Stmt.jeq 0x02 (some .code) 0 2).wellFormed [.label 2] = false ∧
    (Stmt.jne 0x02 none 0 3).wellFormed [.label 2] = false ∧
    (Stmt.op (.write 0x25 0)).wellFormed [] = false ∧
    programWellFormed [.halt, .jmp 1] = false := by decide

/-- R99: a string written to CTRL, and RUN of a wire control byte. -/
theorem test_pseudo_ill_formed_refused :
    (Pseudo.writeString 0x01 [0x41]).wellFormed = false ∧
    (Pseudo.run .ack).wellFormed = false := by decide

/-- R22: a turn that makes an ill-formed access. -/
theorem test_turn_ill_formed_refused : (Turn.access (.write 0x09 1)).wellFormed = false := by decide

/-! ## Decoding: each word, written out from R85, R86 and R89 (RSV [7:4] and OPC [3:0] of a command) -/

theorem test_decode_lrc : decode .cmd8 [0b0000_0001] = .ok (.lrc, []) := by decide
theorem test_decode_lrcCheck : decode .cmd8 [0b0000_0010] = .ok (.lrcCheck, []) := by decide
theorem test_decode_encodeAsk : decode .cmd8 [0b0000_0011] = .ok (.encodeAsk, []) := by decide
theorem test_decode_decodeAsk : decode .cmd8 [0b0000_0100] = .ok (.decodeAsk, []) := by decide
theorem test_decode_decodeResponse :
    decode .cmd8 [0b0000_0101] = .ok (.decodeResponse, []) := by decide
theorem test_decode_encodeResponse :
    decode .cmd8 [0b0000_0110] = .ok (.encodeResponse, []) := by decide
theorem test_decode_send : decode .cmd8 [0b0000_0111] = .ok (.send, []) := by decide
theorem test_decode_receive : decode .cmd8 [0b0000_1000] = .ok (.receive, []) := by decide
theorem test_decode_enq : decode .wire8 [0b0000_0101] = .ok (.enq, []) := by decide
theorem test_decode_ack : decode .wire8 [0b0000_0110] = .ok (.ack, []) := by decide
theorem test_decode_nak : decode .wire8 [0b0001_0101] = .ok (.nak, []) := by decide
theorem test_decode_eot : decode .wire8 [0b0000_0100] = .ok (.eot, []) := by decide
theorem test_decode_stx : decode .wire8 [0b0000_0010] = .ok (.stx, []) := by decide
theorem test_decode_etx : decode .wire8 [0b0000_0011] = .ok (.etx, []) := by decide

/-- V-E1 to V-E4 (spec file 95): the illegal command words, each refused by name. -/
theorem test_decode_refuses_by_name :
    decode .cmd8 [0x00] = .error .noSuchCommand ∧ decode .cmd8 [0x09] = .error .noSuchCommand ∧
    decode .cmd8 [0x17] = .error .reservedBits ∧ decode .cmd8 [0xFF] = .error .reservedBits ∧
    decode .cmd8 [] = .error .noByte ∧ decode .wire8 [0x41] = .error .plainByte := by decide

/-- A table word is one byte; 0x06 is read as a command first. -/
theorem test_table_word :
    decodeTableWord 8 0x06 = some .encodeResponse ∧ decodeTableWord 8 0x15 = some .nak ∧
    decodeTableWord 8 0x41 = none ∧ decodeTableWord 16 0x06 = none := by decide

/-- The word placed for the next step is the one it runs, right after reset (NAK ends a SEND, R153). -/
theorem test_fetch_word :
    after (step (State.reset.withFetchWord 8 0x08)) (fun t => t.engine == .rAwaitEnq) = true ∧
    after (step (State.reset.withFetchWord 8 0x15))
      (fun t => t.err.code == .initializationFailed && t.errInfo0 == 0x15) = true := by decide

/-! ## Single steps: the expected values are those of spec file 95 -/

/-- V-K1. -/
theorem test_lrc : after (exec .lrc (withInput [0x41, 0x42, 0x43]))
    (fun t => t.lrcValue == 0x40 && t.status.word == 0x10) = true := by decide

/-- V-K2: EMPTY_INPUT. -/
theorem test_lrc_empty : after (exec .lrc State.reset)
    (fun t => t.lrcValue == 0x00 && t.status.word == 0x60 && t.err.word == 0x0B) = true := by decide

/-- V-K7. -/
theorem test_lrcCheck_good : after (exec .lrcCheck (withInput [0x02, 0x41, 0x03, 0x42]))
    (fun t => t.status.word == 0x18 && t.errInfo0 == 0 && t.errInfo1 == 0) = true := by decide

/-- V-K8. -/
theorem test_lrcCheck_bad : after (exec .lrcCheck (withInput [0x02, 0x41, 0x03, 0x43]))
    (fun t => t.status.word == 0x10 && t.errInfo0 == 0x42 && t.errInfo1 == 0x43) = true := by decide

/-- V-A1: BUF[0:37] = FA. -/
theorem test_encodeAsk : after (exec .encodeAsk (withAsk 1250 2))
    (fun t => t.bufBytes 37 == frameA && t.bufLen == 37 && t.status.word == 0x10) = true := by
  decide +kernel

/-- V-A4: 12.505 has more than two fractional digits. -/
theorem test_encodeAsk_fraction : after (exec .encodeAsk (withAsk 12505 3))
    (fun t => t.buf == [] && t.bufLen == 0 && t.status.word == 0x60 && t.err.word == 0x05) =
      true := by decide +kernel

/-- V-C3. -/
theorem test_decodeAsk : after (exec .decodeAsk (withInput frameA))
    (fun t => t.status.word == 0x10 && t.ask == AskBlock.ofVal (scenarioA 1250 2)) = true := by
  decide +kernel

/-- V-C4: payload byte 1 is 'A'. -/
theorem test_decodeAsk_digit : after (exec .decodeAsk (withInput ((frameA.set 2 0x41).set 36 0x71)))
    (fun t => t.err.word == 0x04 && t.errInfo0 == 1 && t.errInfo1 == 0x41 &&
      t.ask == AskBlock.reset) = true := by decide +kernel

/-- V-C6: a limited decode leaves RESP_REPORT unwritten. -/
theorem test_decodeResponse_limited : after (exec .decodeResponse (withInput frame28))
    (fun t => t.status.word == 0x12 && t.resp == RespBlock.reset.store (respA 0 1250 false)) =
      true := by decide +kernel

/-- V-C8: the frame of F83 ends in 03 1D; REPORT and the fields after it come back. -/
theorem test_decodeResponse_full :
    after (exec .decodeResponse (withInput (0x02 :: (payload80 ++ [0x03, 0x1D]))))
      (fun t => t.status.word == 0x12 && t.resp == RespBlock.reset.store (respA 0 1250 true)) =
        true := by decide +kernel

/-- V-C5: BUF[0:28] = F28; RESP_REPORT is not read. -/
theorem test_encodeResponse : after (exec .encodeResponse (withResp 0 1250 0 false))
    (fun t => t.bufBytes 28 == frame28 && t.bufLen == 28 && t.status.word == 0x10 &&
      t.faults == FaultSet.empty) = true := by decide +kernel

/-- V-C13: RESULT 10. -/
theorem test_encodeResponse_result : after (exec .encodeResponse (withResp 10 1250 0 false))
    (fun t => t.err.word == 0x04 && t.errInfo0 == 2 && t.errInfo1 == 10 && t.buf == []) = true := by
  decide +kernel

/-- V-S1, the accept step: ENQ is written, the frame stands in BUF. -/
theorem test_send : after (exec .send (withAsk 1250 2))
    (fun t => t.txLog == [0x05] && t.bufBytes 37 == frameA && t.engine == .sAwaitAck &&
      t.tTimeout == 5 && t.status.word == 0x01) = true := by decide +kernel

/-- V-S6: an amount of 0.00 is refused before ENQ. -/
theorem test_send_bad_amount : after (exec .send (withAsk 0 2))
    (fun t => t.txLog == [] && t.status.word == 0x60 && t.err.word == 0x05 && t.tTimeout == 0) =
      true := by decide +kernel

/-- V-R1, step 1. -/
theorem test_receive : after (exec .receive { withInput [0x41] with timeoutArg := Slot.of 5 })
    (fun t => t.engine == .rAwaitEnq && t.bufLen == 0 && t.savedTimeout == Slot.of 0 &&
      t.tTimeout == 5 && t.txLog == []) = true := by decide

/-- V-B1: a command written while BUSY is lost. -/
theorem test_receive_busy : after (exec .receive (inState .sAwaitAck []))
    (fun t => t == { inState .sAwaitAck [] with
      status := { (inState .sAwaitAck []).status with overrun := true }
      faults := { unwritten := false, busyWrite := true } }) = true := by decide

/-- V-R1, step 2; the ENQ is the last single-byte read (R39). -/
theorem test_enq : after (exec .enq (inState .rAwaitEnq []))
    (fun t => t.txLog == [0x06] && t.engine == .rAccepting && t.rdGot && t.rdByte == 0x05) =
      true := by decide

/-- V-S1: the first ACK. -/
theorem test_ack : after (exec .ack (inState .sAwaitAck []))
    (fun t => t.txLog == [] && t.engine == .sSending) = true := by decide

/-- V-S4: NAK in place of the first ACK. -/
theorem test_nak : after (exec .nak (inState .sAwaitAck []))
    (fun t => t.status.word == 0x60 && t.err.word == 0x06 && t.errInfo0 == 0x15 &&
      t.errInfo1 == 1 && t.tTimeout == 7) = true := by decide

/-- V-R1, step 6; EOT_GOT is RD_GOT of this read and EOT_BYTE its RD_BYTE (R39). -/
theorem test_eot : after (exec .eot (inState .rAwaitEot []))
    (fun t => t.eotOk && t.engine == .rDecoding && t.rdGot && t.eotGot && t.rdByte == 0x04 &&
      t.eotByte == 0x04) = true := by decide

/-- V-R1, step 4: STX is the frame's first byte. -/
theorem test_stx : after (exec .stx { inState .rReading [] with expN := 28 })
    (fun t => t.buf == [(0, 0x02)] && t.rxCount == 1 && t.engine == .rReading) = true := by decide

/-- R175: ETX as the last byte of a read of four completes it; the framing check looks at bytes 0 and 2. -/
theorem test_etx :
    after (exec .etx { inState .rReading [] with
      expN := 4, rxCount := 3, buf := [(0, 0x02), (1, 0x41), (2, 0x03)] })
    (fun t => t.buf == [(0, 0x02), (1, 0x41), (2, 0x03), (3, 0x03)] && t.engine == .rVerifying) =
      true := by decide

/-! ## Witnesses: for each statement with hypotheses, a state and operands that meet them together, in each clause at a boundary of its range -/

theorem witness_DecodedWordIsItsEncoding :
    decode .cmd8 [0x08, 0xFF] = .ok (.receive, [0xFF]) ∧
    decode .wire8 [0x15] = .ok (.nak, []) := by decide

theorem witness_IllegalCommandWordFinishesAtOnce :
    State.reset.status.busy = false ∧ ((0x00 : Byte).extractLsb' 0 4).toNat = 0 ∧
    9 ≤ ((0x09 : Byte).extractLsb' 0 4).toNat ∧ 9 ≤ ((0x0F : Byte).extractLsb' 0 4).toNat ∧
    (0x18 : Byte).extractLsb' 4 4 ≠ 0#4 := by decide

/-- A state whose next turn writes SEND to CMD, with a value above 8 bits. -/
def writesSend : State := { State.reset with schedule := [.access (.write 0x00 0x107)] }

/-- A state whose CALLER program writes SEND to CMD next. -/
def programSends : State :=
  { State.reset with schedule := [.caller], program := [.halt, .op (.write 0x00 0x07)], callerPc := 1 }

theorem witness_StepRunsTheWrittenCommand :
    (writesSend.schedule = .access (.write 0x00 0x107) :: [] ∧
      decode .cmd8 [BitVec.ofNat 8 0x107] = .ok (.send, [])) ∧
    (programSends.schedule = .caller :: [] ∧
      programSends.program[programSends.callerPc]? = some (.op (.write 0x00 0x07)) ∧
      decode .cmd8 [BitVec.ofNat 8 0x07] = .ok (.send, [])) := by decide

theorem witness_StepRunsTheDeliveredControlByte :
    ((inState .rAwaitEnq [0x05, 0x02]).engineNext.schedule = .engine :: [] ∧
      (inState .rAwaitEnq [0x05, 0x02]).engineNext.engine.readWait = true ∧
      (inState .rAwaitEnq [0x05, 0x02]).engineNext.rxQ = 0x05 :: [0x02] ∧
      decode .wire8 [0x05] = .ok (.enq, [])) ∧
    ((inState .sAwaitAck [0x06]).schedule = [] ∧ (inState .sAwaitAck [0x06]).engine.readWait = true ∧
      (inState .sAwaitAck [0x06]).rxQ = 0x06 :: [] ∧ decode .wire8 [0x06] = .ok (.ack, [])) := by
  decide

/-- A state whose next turn is an access of the wrong kind. -/
def writesArray : State := { State.reset with schedule := [.access (.write 0x10 0)] }

theorem witness_OnlyIllFormedTurnsAreRefused :
    (State.reset.nextTurn.wellFormed = true ∧ State.reset.nextTurn = .caller ∧
      State.reset.program[State.reset.callerPc]? = none) ∧
    (programSends.nextTurn.wellFormed = true ∧ programSends.nextTurn = .caller ∧
      (Stmt.op (.write 0x00 0x07)).wellFormed programSends.program = true) ∧
    (writesArray.nextTurn = .access (.write 0x10 0) ∧
      (Access.write 0x10 0).wellFormed = false) := by decide

theorem witness_ResetLeavesTheResetValues :
    (∃ s : State, s.schedule = .reset :: [] ∧ s.savedOk ∧ s.toSaved = true) ∧
    (∃ s : State, s.schedule = .reset :: [] ∧ s.savedOk ∧ s.toSaved = false) :=
  ⟨⟨{ inState .rReading [0x41] with schedule := [.reset] }, rfl, fun _ => rfl, rfl⟩,
   ⟨{ State.reset with schedule := [.reset] }, rfl, fun h => absurd h (by decide), rfl⟩⟩

/-- The least BUF_CAP R8 allows. -/
theorem witness_InvariantHoldsAtLaunch :
    Params.wellFormed { Params.launch with bufCap := 83 } = true := by decide

/-- A RECEIVE that has read one byte of 28. -/
def midReceive : State :=
  { inState .rReading [0x30] with expN := 28, rxCount := 1, buf := [(0, 0x02)] }

theorem midReceive_inv : midReceive.Inv := by constructor <;> decide

theorem midReceive_steps : ∃ t, step midReceive = .next t := ⟨_, rfl⟩

theorem witness_EveryStepKeepsTheInvariant : ∃ s t : State, s.Inv ∧ step s = .next t :=
  ⟨midReceive, _, midReceive_inv, rfl⟩

theorem witness_LrcStoresTheXorOfItsInput :
    (State.status (withInput [0x55])).busy = false ∧ (withInput [0x55]).inputIs [0x55] ∧
    State.reset.status.busy = false ∧ State.reset.bufLen = 0 ∧
    (∃ s : State, s.status.busy = false ∧ ∃ k, k < s.bufLen.toNat ∧ s.buf.read k = none) :=
  ⟨rfl, withInput_inputIs _ (by decide), rfl, rfl,
   { State.reset with bufLen := 1 }, rfl, 0, by decide, rfl⟩

theorem witness_LrcCheckReportsTheCheck :
    ((withInput [0x00, 0x07, 0x07]).inputIs (0x00 :: ([0x07] ++ [0x07])) ∧
      [(0x07 : Byte)].foldl (· ^^^ ·) 0 = 0x07) ∧
    ((withInput [0x02, 0x41, 0x03, 0x43]).inputIs (0x02 :: ([0x41, 0x03] ++ [0x43])) ∧
      [(0x41 : Byte), 0x03].foldl (· ^^^ ·) 0 ≠ 0x43) ∧
    ((withInput [0x02, 0x06]).inputIs [0x02, 0x06] ∧ ([0x02, 0x06] : List Byte).length < 3) :=
  ⟨⟨withInput_inputIs _ (by decide), by decide⟩, ⟨withInput_inputIs _ (by decide), by decide⟩,
   ⟨withInput_inputIs _ (by decide), by decide⟩⟩

/-- Bit 7 of byte 1, of the last byte (3), and of bytes 1 and 2. -/
theorem witness_ChecksumDetectsSingleBitFlips :
    7 < 8 ∧ lrcOk [0x02, 0x41, 0x03, 0x42] = true ∧
    (1 ≤ 1 ∧ 1 < ([0x02, 0x41, 0x03, 0x42] : List Byte).length) ∧
    (1 ≤ 3 ∧ 3 < ([0x02, 0x41, 0x03, 0x42] : List Byte).length) ∧
    (1 ≤ 1 ∧ 1 < 2 ∧ 2 < ([0x02, 0x41, 0x03, 0x42] : List Byte).length - 1) := by decide

theorem witness_AccumulatorComputesTheFold :
    ([0x55] : List Byte) ≠ [] ∧ ([0x01, 0x02] : List Byte).Perm [0x02, 0x01] := by decide

theorem witness_DigitsParseBack :
    9999 < 10 ^ 4 ∧ 0 < 10 ^ 0 ∧ digitsOk [0x30, 0x39] = true ∧ digitsOk [] = true := by decide

/-- The least and the greatest amount, and the two next to them outside (S-BND1 to S-BND4). -/
theorem witness_AmountInCentsIsExact :
    amountCents 1 2 = .ok 1 ∧ amountCents 9999999 2 = .ok 9999999 ∧
    amountCents 0 2 = .error ⟨.amountOutOfRange, 0, 0⟩ ∧
    amountCents 10000000 2 = .error ⟨.amountOutOfRange, 0, 0⟩ := by decide

theorem witness_EncodeAskLaysOutTheFrame :
    ((withAsk 1 2).status.busy = false ∧ (withAsk 1 2).ask.written = true ∧
      amountCents (withAsk 1 2).ask.mant.val.toNat (withAsk 1 2).ask.scale.val.toNat = .ok 1) ∧
    ((withAsk 9999999 2).ask.written = true ∧
      amountCents (withAsk 9999999 2).ask.mant.val.toNat
        (withAsk 9999999 2).ask.scale.val.toNat = .ok 9999999) := by decide +kernel

theorem witness_EncodeAskRefusesBadAmounts :
    ((withAsk 10000000 2).status.busy = false ∧ (withAsk 10000000 2).ask.written = true ∧
      amountCents (withAsk 10000000 2).ask.mant.val.toNat
        (withAsk 10000000 2).ask.scale.val.toNat = .error ⟨.amountOutOfRange, 0, 0⟩) ∧
    (State.reset.status.busy = false ∧ State.reset.ask.written = false) := by decide +kernel

/-- FA's payload (spec file 95). -/
def payloadA : List Byte := slice frameA 1 35

theorem witness_DecodeAskWritesTheBlock :
    (withInput frameA).status.busy = false ∧
    (withInput frameA).inputIs (0x02 :: (payloadA ++ [0x03, 0x01])) ∧
    payloadA.length = 34 ∧ (payloadA ++ [0x03]).foldl (· ^^^ ·) 0 = 0x01 ∧
    digitsOk (slice payloadA 0 2) = true ∧ digitsOk (slice payloadA 2 10) = true ∧
    digitsOk (slice payloadA 13 16) = true :=
  ⟨rfl, withInput_inputIs _ (by decide), by decide +kernel⟩

/-- Two bytes; a bad checksum; a payload of 0 bytes and of 35; a non-digit at payload bytes 0 and 15. -/
theorem witness_DecodeAskReportsTheFirstError :
    (withInput [0x02, 0x06]).inputIs [0x02, 0x06] ∧
    ((withInput [0x02, 0x03, 0x02]).inputIs (0x02 :: ([] ++ [0x03, 0x02])) ∧
      ([] ++ [(0x03 : Byte)]).foldl (· ^^^ ·) 0 ≠ 0x02) ∧
    ((withInput [0x02, 0x03, 0x03]).inputIs (0x02 :: ([] ++ [0x03, 0x03])) ∧
      ([] ++ [(0x03 : Byte)]).foldl (· ^^^ ·) 0 = 0x03 ∧ ([] : List Byte).length ≠ 34) ∧
    ((withInput (0x02 :: (payloadA ++ [0x20] ++ [0x03, 0x21]))).inputIs
        (0x02 :: (payloadA ++ [0x20] ++ [0x03, 0x21])) ∧
      (payloadA ++ [0x20] ++ [0x03]).foldl (· ^^^ ·) 0 = 0x21 ∧ (payloadA ++ [0x20]).length ≠ 34) :=
  ⟨withInput_inputIs _ (by decide), ⟨withInput_inputIs _ (by decide), by decide⟩,
   ⟨withInput_inputIs _ (by decide), by decide⟩, ⟨withInput_inputIs _ (by decide), by decide +kernel⟩⟩

/-- A payload with 'A' at byte 15, the last of the digit fields, and one with it at byte 0. -/
theorem witness_DecodeAskReportsTheFirstError_digit :
    (∃ c, (withInput (0x02 :: (payloadA.set 15 0x41 ++ [0x03, c]))).inputIs
        (0x02 :: (payloadA.set 15 0x41 ++ [0x03, c])) ∧
      (payloadA.set 15 0x41 ++ [0x03]).foldl (· ^^^ ·) 0 = c) ∧
    (payloadA.set 15 0x41).length = 34 ∧ (payloadA.set 15 0x41)[15]? = some 0x41 ∧
    isDigit 0x41 = false ∧ (15 < 10 ∨ 13 ≤ 15 ∧ 15 < 16) ∧
    (∀ j, j < 15 → (j < 10 ∨ 13 ≤ j ∧ j < 16) →
      ((payloadA.set 15 0x41)[j]?).all isDigit = true) ∧
    (payloadA.set 0 0x41)[0]? = some 0x41 :=
  ⟨⟨_, withInput_inputIs _ (by decide), rfl⟩, by decide +kernel⟩

theorem witness_EncodedAskDecodesToItself :
    (withAsk 125 1).status.busy = false ∧ ValidAsk (withAsk 125 1).params (withAsk 125 1).ask :=
  ⟨rfl, by decide +kernel, by decide +kernel, by decide +kernel, ⟨1250, by decide +kernel⟩,
   by decide +kernel, by decide +kernel, .inl (by decide +kernel)⟩

/-- Both layouts: F83 and F28 (spec file 95). -/
theorem witness_DecodeResponseWritesTheBlock :
    ((withInput frame28).inputIs (0x02 :: (payload25 ++ [0x03, 0x32])) ∧
      (payload25 ++ [0x03]).foldl (· ^^^ ·) 0 = 0x32 ∧ payload25.length = 25 ∧
      digitsOk (slice payload25 0 2) = true ∧ digitsOk (slice payload25 2 3) = true ∧
      digitsOk (slice payload25 3 11) = true ∧ digitsOk (slice payload25 12 15) = true) ∧
    ((withInput (0x02 :: (payload80 ++ [0x03, 0x1D]))).inputIs
        (0x02 :: (payload80 ++ [0x03, 0x1D])) ∧
      (payload80 ++ [0x03]).foldl (· ^^^ ·) 0 = 0x1D ∧ payload80.length = 80 ∧
      digitsOk (slice payload80 0 2) = true ∧ digitsOk (slice payload80 2 3) = true ∧
      digitsOk (slice payload80 3 11) = true ∧ digitsOk (slice payload80 67 70) = true) :=
  ⟨⟨withInput_inputIs _ (by decide), by decide +kernel⟩,
   ⟨withInput_inputIs _ (by decide), by decide +kernel⟩⟩

/-- Two bytes; V-C11's checksum; S-LEN1's payload of 79 bytes. -/
theorem witness_DecodeResponseReportsTheFirstError :
    (withInput [0x02, 0x06]).inputIs [0x02, 0x06] ∧
    ((withInput (0x02 :: (payload25 ++ [0x03, 0x33]))).inputIs
        (0x02 :: (payload25 ++ [0x03, 0x33])) ∧
      (payload25 ++ [0x03]).foldl (· ^^^ ·) 0 ≠ 0x33) ∧
    ((withInput (0x02 :: (payload80.dropLast ++ [0x03, 0x2C]))).inputIs
        (0x02 :: (payload80.dropLast ++ [0x03, 0x2C])) ∧
      (payload80.dropLast ++ [0x03]).foldl (· ^^^ ·) 0 = 0x2C ∧
      payload80.dropLast.length ≠ 80 ∧ payload80.dropLast.length ≠ 25) :=
  ⟨withInput_inputIs _ (by decide), ⟨withInput_inputIs _ (by decide), by decide +kernel⟩,
   ⟨withInput_inputIs _ (by decide), by decide +kernel⟩⟩

/-- A non-digit at payload byte 14, the last digit byte of the limited layout, and V-C10's at byte 67. -/
theorem witness_DecodeResponseReportsTheFirstError_digit :
    (∃ c, (withInput (0x02 :: (payload25.set 14 0x45 ++ [0x03, c]))).inputIs
        (0x02 :: (payload25.set 14 0x45 ++ [0x03, c])) ∧
      (payload25.set 14 0x45 ++ [0x03]).foldl (· ^^^ ·) 0 = c) ∧
    (payload25.set 14 0x45).length = 25 ∧ (payload25.set 14 0x45)[14]? = some 0x45 ∧
    isDigit 0x45 = false ∧
    (∀ j, j < 14 → (j < 11 ∨ 12 ≤ j ∧ j < 15) →
      ((payload25.set 14 0x45)[j]?).all isDigit = true) ∧
    (payload80.set 67 0x45).length = 80 ∧ (payload80.set 67 0x45)[67]? = some 0x45 ∧
    (∀ j, j < 67 → (j < 11 ∨ 67 ≤ j ∧ j < 70) →
      ((payload80.set 67 0x45)[j]?).all isDigit = true) :=
  ⟨⟨_, withInput_inputIs _ (by decide), rfl⟩, by decide +kernel⟩

theorem witness_EncodeResponseLaysOutTheFrame :
    ((withResp 9 99999999 55 true).resp.written = true ∧
      (withResp 9 99999999 55 true).resp.reportLen.val = 55 ∧
      (withResp 9 99999999 55 true).resp.result.val.toNat ≤ 9 ∧
      (withResp 9 99999999 55 true).resp.amount.val.toNat ≤ 99999999) ∧
    ((withResp 0 0 0 false).resp.written = true ∧ (withResp 0 0 0 false).resp.reportLen.val = 0 ∧
      (withResp 0 0 0 false).status.busy = false) := by decide +kernel

/-- RESP_REPORT_LEN 54; RESP_RESULT 10; RESP_AMOUNT 100000000. -/
theorem witness_EncodeResponseReportsTheFirstError :
    ((withResp 0 0 54 true).resp.written = true ∧ (withResp 0 0 54 true).resp.reportLen.val ≠ 55 ∧
      (withResp 0 0 54 true).resp.reportLen.val ≠ 0) ∧
    ((withResp 10 0 55 true).resp.written = true ∧
      (withResp 10 0 55 true).resp.reportLen.val = 55 ∧
      9 < (withResp 10 0 55 true).resp.result.val.toNat) ∧
    ((withResp 9 100000000 0 false).resp.written = true ∧
      (withResp 9 100000000 0 false).resp.reportLen.val = 0 ∧
      (withResp 9 100000000 0 false).resp.result.val.toNat ≤ 9 ∧
      99999999 < (withResp 9 100000000 0 false).resp.amount.val.toNat) := by decide +kernel

theorem witness_EncodedResponseDecodesToItself :
    ((withResp 7 1250 0 false).status.busy = false ∧ ValidResp (withResp 7 1250 0 false).resp) ∧
    ValidResp (withResp 9 99999999 55 true).resp :=
  ⟨⟨rfl, by decide +kernel, by decide +kernel, by decide +kernel, by decide +kernel, by decide +kernel,
    by decide +kernel⟩,
   by decide +kernel, by decide +kernel, by decide +kernel, by decide +kernel, by decide +kernel,
   by decide +kernel⟩

theorem witness_ChecksumAndCodecCommandsCompleteAtOnce :
    Instr.encodeResponse ∈
      [Instr.lrc, .lrcCheck, .encodeAsk, .decodeAsk, .decodeResponse, .encodeResponse] ∧
    State.reset.status.busy = false := by decide

/-- The frame FA (spec file 95) is what the ASK block of Scenario A encodes to; an amount of 0 does not encode. -/
theorem witness_SendOpensTheConversation :
    ((withAsk 1250 2).status.busy = false ∧ (withAsk 1250 2).ask.written = true ∧
      (withAsk 1250 2).timeoutArg.written = true ∧ encAsk (withAsk 1250 2).askVal = .ok frameA) ∧
    ((withAsk 0 2).status.busy = false ∧ (withAsk 0 2).ask.written = true ∧
      (withAsk 0 2).timeoutArg.written = true ∧
      encAsk (withAsk 0 2).askVal = .error ⟨.amountOutOfRange, 0, 0⟩) := by decide +kernel

theorem inState_savedOk (e : EngineState) (q : List Byte) : (inState e q).savedOk := fun _ => rfl

theorem witness_SendAwaitsTheFirstAck :
    (inState .sAwaitAck []).engine = .sAwaitAck ∧ (inState .sAwaitAck []).savedOk ∧
    (0x07 : Byte) ≠ 0x06 ∧ (inState .sAwaitAck []).rxQ = [] :=
  ⟨rfl, inState_savedOk _ _, by decide, rfl⟩

theorem witness_SendWritesTheFrame : ∃ s : State,
    s.engine = .sSending ∧ frameA.length = 37 ∧ s.holds frameA :=
  ⟨{ withInput frameA with engine := .sSending }, rfl, rfl, withInput_holds frameA⟩

theorem witness_SendAwaitsTheSecondAck :
    (inState .sAwaitPostAck []).engine = .sAwaitPostAck ∧ (0x15 : Byte) ≠ 0x06 ∧
    (inState .sAwaitPostAck []).rxQ = [] := by decide

theorem witness_SendClosesWithEot :
    ((inState .sCloseSent []).savedOk ∧ (inState .sCloseSent []).engine = .sCloseSent) ∧
    ((inState .sCloseRejected []).savedOk ∧ (inState .sCloseRejected []).engine = .sCloseRejected) :=
  ⟨⟨inState_savedOk _ _, rfl⟩, ⟨inState_savedOk _ _, rfl⟩⟩

/-- V-S1 with the terminal's bytes 06, 06 queued; the other queues of the statement are `[]`, `[06]`, `[06, 15]`, `[15]`. -/
theorem witness_SendConversationRunsToItsEnd : ∀ q : List Byte, ∃ s : State, s.rxQ = q ∧
    s.status.busy = false ∧ s.ask.written = true ∧ s.timeoutArg.written = true ∧
    s.schedule = [] ∧ encAsk s.askVal = .ok frameA :=
  fun q => ⟨{ withAsk 1250 2 with rxQ := q }, rfl, rfl,
    (by decide +kernel : (withAsk 1250 2).ask.written = true), rfl, rfl,
    (by decide +kernel : encAsk (withAsk 1250 2).askVal = .ok frameA)⟩

theorem witness_ReceiveOpensTheConversation :
    (withAsk 1 2).status.busy = false ∧ (withAsk 1 2).timeoutArg.written = true := by decide

theorem witness_ReceiveAwaitsTheEnq :
    (inState .rAwaitEnq []).engine = .rAwaitEnq ∧ (inState .rAwaitEnq []).savedOk ∧
    (0x06 : Byte) ≠ 0x05 ∧ (inState .rAwaitEnq []).rxQ = [] :=
  ⟨rfl, inState_savedOk _ _, by decide, rfl⟩

/-- A RECEIVE in R_ACCEPTING with this answer flag written. -/
def accepting (flag : Byte) : State :=
  { inState .rAccepting [] with ask := { AskBlock.reset with answerFlag := Slot.of flag } }

theorem witness_ReceiveChoosesTheByteCount :
    ((accepting 0x31).engine = .rAccepting ∧ (accepting 0x31).savedOk ∧
      (accepting 0x31).params.wellFormed = true ∧ (accepting 0x31).ask.answerFlag.written = true ∧
      (accepting 0x31).ask.answerFlag.val = (accepting 0x31).params.answerFlagFull) ∧
    (accepting 0x30).ask.answerFlag.val = (accepting 0x30).params.answerFlagLimited ∧
    ((accepting 0x58).ask.answerFlag.val ≠ (accepting 0x58).params.answerFlagFull ∧
      (accepting 0x58).ask.answerFlag.val ≠ (accepting 0x58).params.answerFlagLimited) ∧
    ((inState .rAccepting []).savedOk ∧ (inState .rAccepting []).params.wellFormed = true ∧
      (inState .rAccepting []).ask.answerFlag.written = false) :=
  ⟨⟨rfl, fun _ => rfl, by decide⟩, by decide, by decide, inState_savedOk _ _, by decide⟩

/-- The last byte that does not complete the read: RX_COUNT 26 of 28. -/
theorem witness_ReceiveStoresEachByte : ∃ s : State,
    s.engine = .rReading ∧ s.rxCount.toNat = 26 ∧ s.rxCount.toNat + 1 < s.expN.toNat :=
  ⟨{ inState .rReading [] with rxCount := 26, expN := 28 }, by decide⟩

/-- F28 but for its last byte has been read. -/
def lastByte (f : List Byte) : State :=
  { withInput f with engine := .rReading, rxCount := 27, expN := 28 }

theorem witness_ReceiveChecksTheFraming :
    ((lastByte (0x02 :: (payload25 ++ [0x03]))).engine = .rReading ∧
      (lastByte (0x02 :: (payload25 ++ [0x03]))).savedOk ∧
      (0x02 :: (payload25 ++ [0x03])).length =
        (lastByte (0x02 :: (payload25 ++ [0x03]))).rxCount.toNat ∧
      (lastByte (0x02 :: (payload25 ++ [0x03]))).holds (0x02 :: (payload25 ++ [0x03])) ∧
      (lastByte (0x02 :: (payload25 ++ [0x03]))).rxCount.toNat + 1 =
        (lastByte (0x02 :: (payload25 ++ [0x03]))).expN.toNat ∧
      (0x02 :: (payload25 ++ [0x03]))[0]? = some 0x02 ∧
      (0x02 :: (payload25 ++ [0x03]))[26]? = some 0x03) ∧
    ((lastByte (0x02 :: (payload25 ++ [0x04]))).holds (0x02 :: (payload25 ++ [0x04])) ∧
      (0x02 :: (payload25 ++ [0x04])).length = 27 ∧
      (0x02 :: (payload25 ++ [0x04]))[26]? = some 0x04 ∧
      ¬ ((0x02 : Byte) = 0x02 ∧ (0x04 : Byte) = 0x03)) :=
  ⟨⟨rfl, fun h => absurd h (by decide +kernel), rfl, withInput_holds _, rfl, rfl, rfl⟩,
   withInput_holds _, rfl, rfl, by decide⟩

theorem witness_ReceiveReportsATruncatedAnswer :
    (inState .rReading []).engine = .rReading ∧ (inState .rReading []).savedOk ∧
    (inState .rReading []).rxQ = [] := ⟨rfl, inState_savedOk _ _, rfl⟩

theorem witness_ReceiveAcknowledgesAndAwaitsEot :
    (inState .rVerifying []).engine = .rVerifying ∧ (inState .rAwaitEot []).engine = .rAwaitEot ∧
    (inState .rAwaitEot []).rxQ = [] := by decide

/-- A RECEIVE in R_DECODING that has read the frame `f` of 28 bytes. -/
def decoding (f : List Byte) (eot lenient : Bool) : State :=
  { withInput f with
    engine := .rDecoding, expN := 28, eotOk := eot, ctrl := { lenient := lenient } }

/-- F28 and F28bad (spec file 95), the EOT there and missing, LENIENT set and clear. -/
theorem witness_ReceiveCompletesByTheTable :
    ((decoding frame28 true false).engine = .rDecoding ∧ (decoding frame28 true false).savedOk ∧
      frame28.length = (decoding frame28 true false).expN.toNat ∧
      (decoding frame28 true false).holds frame28 ∧
      (decResp frame28).toOption = some (respA 0 1250 false) ∧
      (decoding frame28 true false).eotOk = true ∧ (decoding frame28 false false).eotOk = false) ∧
    (∃ e, decResp (0x02 :: (payload25 ++ [0x03, 0x33])) = .error e ∧
      e.code = .checksumMismatch ∧
      (decoding (0x02 :: (payload25 ++ [0x03, 0x33])) true true).ctrl.lenient = true ∧
      ¬ (e.code = .checksumMismatch ∧
        (decoding (0x02 :: (payload25 ++ [0x03, 0x33])) true false).ctrl.lenient = true)) :=
  ⟨⟨rfl, fun h => absurd h (by decide +kernel), rfl, withInput_holds _, by decide +kernel, rfl, rfl⟩,
   ⟨.checksumMismatch, 0x32, 0x33⟩, by decide +kernel, rfl, rfl, by decide +kernel⟩

theorem witness_ReceiveConversationRunsToItsEnd : ∀ (q : List Byte) (flag : Byte), ∃ s : State,
    s.rxQ = q ∧ s.ask.answerFlag.val = flag ∧ s.status.busy = false ∧
    s.timeoutArg.written = true ∧ s.ask.answerFlag.written = true ∧
    s.params.wellFormed = true ∧ s.schedule = [] :=
  fun q flag => ⟨{ State.reset with
      rxQ := q, timeoutArg := Slot.of 5, ask := { AskBlock.reset with answerFlag := Slot.of flag } },
    rfl, rfl, rfl, rfl, rfl, (by decide : State.reset.params.wellFormed = true), rfl⟩

theorem witness_ControlBytesActWhereRecognised :
    (inState .sAwaitAck []).engine = .sAwaitAck ∧
    (inState .sAwaitPostAck []).engine = .sAwaitPostAck ∧ (inState .sAwaitAck []).savedOk ∧
    (inState .rAwaitEnq []).engine = .rAwaitEnq ∧ (inState .rAwaitEot []).engine = .rAwaitEot ∧
    (midReceive.engine = .rReading ∧ midReceive.rxCount.toNat + 1 < midReceive.expN.toNat) :=
  ⟨rfl, rfl, inState_savedOk _ _, rfl, rfl, by decide⟩

theorem witness_ControlBytesAreOtherwiseJustBytes :
    Instr.nak.format = .wire8 ∧ midReceive.engine.readWait = true ∧
    State.reset.engine.readWait = false := by decide

/-- CMD, a writable register, and the last elements of ASK_POS and of BUF. -/
theorem witness_WritesWhileBusyAreRefused :
    midReceive.status.busy = true ∧
    (Reg.cmd.rights ≠ .readOnly ∧ Reg.cmd.isArray = false) ∧
    (Reg.ctrl.rights ≠ .readOnly ∧ Reg.ctrl.isArray = false) ∧
    (Reg.askPos.isArray = true ∧ 1 < midReceive.arrayLength .askPos) ∧
    (Reg.buf.isArray = true ∧ 255 < midReceive.arrayLength .buf) := by decide

theorem witness_ReadsWhileBusyAreHarmless :
    midReceive.status.busy = true ∧ (Reg.bufLen.isArray = false ∧ Reg.bufLen ≠ .status) ∧
    (Reg.buf.isArray = true ∧ 255 < midReceive.arrayLength .buf) := by decide

/-- A write of `v` to `r`, then a read of it. -/
def writesThenReads (r : Reg) (v : Nat) : State :=
  { State.reset with schedule := .access (.write r.number v) :: .access (.read r.number) :: [] }

theorem witness_WrittenRegistersReadBack :
    (writesThenReads .bufLen 257).status.busy = false ∧
    (writesThenReads .bufLen 257).schedule =
      .access (.write Reg.bufLen.number 257) :: .access (.read Reg.bufLen.number) :: [] ∧
    (Reg.bufLen.rights = .readWrite ∧ Reg.bufLen.isArray = false) ∧
    (Reg.timeoutArg.rights = .readWrite ∧ Reg.timeoutArg.isArray = false) ∧
    (Reg.askAmtMant.rights = .readWrite ∧ Reg.askAmtMant.isArray = false ∧
      Reg.askAmtMant.shape = .numeric 32) ∧
    (Reg.ctrl.rights = .readWrite ∧ Reg.ctrl.isArray = false) := by decide

/-- A write of `v` to the last element of BUF, then a read of it. -/
def writesThenReadsElem (v : Nat) : State :=
  { State.reset with
    schedule := [.access (.writeElem Reg.buf.number 255 v), .access (.readElem Reg.buf.number 255)] }

/-- The last element of BUF, with a value above 8 bits, and the first index beyond it. -/
theorem witness_WrittenElementsReadBack :
    ((writesThenReadsElem 0x141).status.busy = false ∧ Reg.buf.isArray = true ∧
      255 < (writesThenReadsElem 0x141).arrayLength .buf ∧
      (writesThenReadsElem 0x141).schedule = .access (.writeElem Reg.buf.number 255 0x141) ::
        .access (.readElem Reg.buf.number 255) :: []) ∧
    State.reset.arrayLength .buf ≤ 256 ∧ 0 ≠ 255 := by decide

theorem witness_ReadOnlyAndUnmappedRegisters :
    (Reg.ofNumber 0x06).all (fun r => decide (r.rights = .readOnly)) = true ∧
    (Reg.ofNumber 0x0A).all (fun r => decide (r.rights = .readOnly)) = true ∧
    Reg.ofNumber 0x0A = none ∧ Reg.ofNumber 0x28 = none := by decide

theorem witness_CallerReadsHaveNoSideEffect :
    ((Access.read 0x11).wellFormed = true ∧ State.reset.status.busy = false ∧
      Access.read 0x11 = .read Reg.askAmtMant.number ∧
      State.reset.regWritten .askAmtMant = false) ∧
    ((Access.readElem 0x09 255).wellFormed = true ∧
      Access.readElem 0x09 255 = .readElem Reg.buf.number 255 ∧
      255 < State.reset.arrayLength .buf ∧ (State.reset.elemSlot .buf 255).written = false) ∧
    (∀ n v, Access.read 0x11 ≠ .write n v) ∧ (∀ n i v, Access.read 0x11 ≠ .writeElem n i v) ∧
    (∀ n v, Access.readElem 0x09 255 ≠ .write n v) ∧
    (∀ n i v, Access.readElem 0x09 255 ≠ .writeElem n i v) :=
  ⟨by decide, by decide, nofun, nofun, nofun, nofun⟩

/-- A program that waits and then branches on OUTCOME. -/
def branching (pc : Nat) : State :=
  { State.reset with
    schedule := [.caller], callerPc := pc
    program := [.label 3, .jeq 0x02 (some .busy) 1 3, .jeq 0x02 (some .outcome) 0 4,
      .jne 0x02 (some .outcome) 0 4, .label 4] }

/-- The value read is OUTCOME = 0: JEQ on 0 jumps and JNE on 0 does not; on 1 it is the other way round. -/
theorem witness_BranchesReadAndThenJump :
    ((branching 2).schedule = .caller :: [] ∧
      (branching 2).program[(branching 2).callerPc]? = some (.jeq 0x02 (some .outcome) 0 4) ∧
      (Stmt.jeq 0x02 (some .outcome) 0 4).wellFormed (branching 2).program = true) ∧
    ((branching 3).schedule = .caller :: [] ∧
      (branching 3).program[(branching 3).callerPc]? = some (.jne 0x02 (some .outcome) 0 4) ∧
      (Stmt.jeq 0x02 (some .outcome) 0 4).wellFormed (branching 3).program = true) ∧
    Field.select (some .outcome) ({ branching 3 with schedule := [] }.callerRead 0x02).rdata = 0 ∧
    ((branching 1).schedule = .caller :: [] ∧
      (branching 1).program[(branching 1).callerPc]? = some (.jeq 0x02 (some .busy) 1 3) ∧
      (Stmt.jeq 0x02 (some .busy) 1 3).wellFormed (branching 1).program = true) := by decide

/-- A SEND in S_SENDING, whose next step transmits; for the statements about every step. -/
theorem witness_TransmitLogOnlyGrows :
    (∃ t, step (inState .sSending []) = .next t) ∧
    (∃ s t : State, step s = .next t ∧ s.engine.receiving = true ∧ s.status.busy = true) :=
  ⟨⟨_, rfl⟩, midReceive, _, rfl, rfl, rfl⟩

theorem witness_ReceiveQueueIsFirstInFirstOut : ∃ s t : State, step s = .next t ∧
    s.nextTurn = .engine ∧ s.engine.readWait = true ∧ s.rxQ ≠ [] :=
  ⟨midReceive, _, rfl, rfl, rfl, by decide⟩

theorem witness_TimeoutKnobIsSavedAndRestored : ∃ s t : State, s.Inv ∧ step s = .next t ∧
    s.toSaved = true := ⟨midReceive, _, midReceive_inv, rfl, rfl⟩

theorem witness_OverrunAndFaultsAreSticky : ∃ s t : State, step s = .next t ∧
    s.status.overrun = true ∧ s.nextTurn ≠ .reset ∧ s.faults.unwritten = true ∧
    s.faults.busyWrite = true :=
  ⟨{ midReceive with
      status := { midReceive.status with overrun := true }
      faults := { unwritten := true, busyWrite := true } }, _, rfl, rfl, by decide, rfl, rfl⟩

theorem witness_OnlyLrcWritesLrcValue : ∃ t, step (branching 2) = .next t := ⟨_, rfl⟩

theorem witness_EngineStateFollowsTheTables : ∃ s t : State, s.Inv ∧ step s = .next t ∧
    s.engine ≠ .idle := ⟨midReceive, _, midReceive_inv, rfl, by decide⟩

/-- The least and the greatest OUTCOME and CODE, written registers, and the last element of each array. -/
theorem witness_ReadsGiveTheRegisterValues :
    ([CmdOutcome.none, .ok, .sent, .rejected, .noAnswer, .response, .error][0]? =
      some State.reset.status.outcome ∧ State.reset.status.busy = false) ∧
    (∃ s : State, [CmdOutcome.none, .ok, .sent, .rejected, .noAnswer, .response, .error][6]? =
        some s.status.outcome ∧ s.status.busy = false ∧ s.err.code = .illegalCommand ∧
      s.timeoutArg = Slot.of 5 ∧ s.ask = AskBlock.ofVal (scenarioA 1250 2) ∧
      s.resp = RespBlock.reset.store (respA 0 1250 true) ∧ s.buf.read 0 = some 0x41 ∧
      0 < s.params.bufCap) ∧
    ((AskBlock.ofVal (scenarioA 1250 2)).mant = Slot.of 1250 ∧
      (AskBlock.ofVal (scenarioA 1250 2)).scale = Slot.of 2 ∧
      (AskBlock.ofVal (scenarioA 1250 2)).answerFlag = Slot.of 0x31 ∧
      (AskBlock.ofVal (scenarioA 1250 2)).paymentMode = Slot.of 0x31 ∧
      (AskBlock.ofVal (scenarioA 1250 2)).transactionType = Slot.of 0x30 ∧
      (AskBlock.ofVal (scenarioA 1250 2)).pos[1]? = some (Slot.of 0x31) ∧
      (AskBlock.ofVal (scenarioA 1250 2)).currency[2]? = some (Slot.of 0x38) ∧
      (AskBlock.ofVal (scenarioA 1250 2)).priv[9]? = some (Slot.of 0x20) ∧
      (AskBlock.ofVal (scenarioA 1250 2)).delay[3]? = some (Slot.of 0x30) ∧
      (AskBlock.ofVal (scenarioA 1250 2)).auth[3]? = some (Slot.of 0x30)) ∧
    ((RespBlock.reset.store (respA 0 1250 true)).result = Slot.of 0 ∧
      (RespBlock.reset.store (respA 0 1250 true)).amount = Slot.of 1250 ∧
      (RespBlock.reset.store (respA 0 1250 true)).paymentMode = Slot.of 0x31 ∧
      (RespBlock.reset.store (respA 0 1250 true)).reportLen = Slot.of 55 ∧
      (RespBlock.reset.store (respA 0 1250 true)).pos[1]? = some (Slot.of 0x31) ∧
      (RespBlock.reset.store (respA 0 1250 true)).report[54]? = some (Slot.of 0x20) ∧
      (RespBlock.reset.store (respA 0 1250 true)).currency[2]? = some (Slot.of 0x38) ∧
      (RespBlock.reset.store (respA 0 1250 true)).priv[9]? = some (Slot.of 0x31)) :=
  ⟨by decide,
   ⟨{ withInput [0x41] with
        status := { Status.reset with outcome := .error }
        err := { code := .illegalCommand, eotMissing := true }
        timeoutArg := Slot.of 5
        ask := AskBlock.ofVal (scenarioA 1250 2)
        resp := RespBlock.reset.store (respA 0 1250 true) },
    rfl, rfl, rfl, rfl, rfl, rfl, rfl, by decide⟩,
   by decide +kernel, by decide +kernel⟩

/-- One unwritten input byte; each of the RESP registers ENCODE_RESPONSE comes to read unwritten in its turn; an unwritten ASK block; an unwritten TIMEOUT_ARG. -/
theorem witness_UnwrittenInputsAreRecordedAndTheCommandGoesOn :
    (∃ s : State, s.status.busy = false ∧ ∃ k, k < s.bufLen.toNat ∧ s.buf.read k = none) ∧
    State.reset.resp.reportLen.written = false ∧
    (∃ r : RespBlock, r.reportLen = Slot.of 0 ∧ r.result.written = false) ∧
    (∃ r : RespBlock, r.reportLen = Slot.of 55 ∧ r.result.val.toNat = 9 ∧
      r.amount.written = false) ∧
    (∃ r : RespBlock, r.reportLen = Slot.of 55 ∧ r.result.val.toNat = 9 ∧
      r.amount.val.toNat = 99999999 ∧ r.report.written = false) ∧
    State.reset.status.busy = false ∧ State.reset.ask.written = false ∧
    State.reset.timeoutArg.written = false :=
  ⟨⟨{ State.reset with bufLen := 1 }, rfl, 0, by decide, rfl⟩, rfl,
   ⟨{ RespBlock.reset with reportLen := Slot.of 0 }, rfl, rfl⟩,
   ⟨{ RespBlock.reset with reportLen := Slot.of 55, result := Slot.of 9 }, rfl, rfl, rfl⟩,
   ⟨{ RespBlock.reset with
      reportLen := Slot.of 55, result := Slot.of 9, amount := Slot.of 99999999 },
    rfl, rfl, rfl, by decide +kernel⟩, rfl, by decide, rfl⟩

end Sys2Proof.Tests
end

/-! PROOFS. The statements about the scope: which steps answer a next state, the decimal digits, the invariant at launch. -/

namespace Sys2Proof.Machine

/-! ### Which steps are refused -/

/-- Every instruction's meaning answers a next state, from every state: PEHE has no traps (R209). -/
theorem exec_eq_next (i : Instr) (s : State) : ∃ t, exec i s = .next t := by
  cases i <;> exact ⟨_, rfl⟩

/-- A step is refused exactly when the turn fetched is. -/
theorem step_refused_iff {s : State} {r : Refusal} :
    step s = .refused r ↔ fetch s = .refused r := by
  unfold step
  split
  next i u hf =>
    obtain ⟨t, ht⟩ := exec_eq_next i u
    simp [ht, hf]
  next hf => simp [hf]
  next hf => simp [hf]

theorem step_ne_fault (s : State) (f : Fault) : step s ≠ .fault f := by
  unfold step
  split
  next i u _ =>
    obtain ⟨t, ht⟩ := exec_eq_next i u
    simp [ht]
  next => simp
  next => simp

/-- A step that is not refused answers a next state. -/
theorem step_eq_next_of_not_refused {s : State} (h : ∀ r, fetch s ≠ .refused r) :
    ∃ t, step s = .next t := by
  cases hs : step s with
  | next t => exact ⟨t, rfl⟩
  | fault f => exact absurd hs (step_ne_fault s f)
  | refused r => exact absurd (step_refused_iff.mp hs) (h r)

/-- An access is refused exactly when R22 does not have it (log 9). -/
theorem accessTurn_refused_iff {a : Access} {s : State} {r : Refusal} :
    accessTurn a s = .refused r ↔ a.wellFormed = false ∧ r = .noSuchAccess := by
  unfold accessTurn
  cases hw : a.wellFormed with
  | false => simp [eq_comm]
  | true =>
    cases a with
    | write reg v =>
      simp only [if_true]
      split
      · split <;> simp
      · simp
    | writeElem reg i v => simp
    | read reg => simp
    | readElem reg i => simp

/-- A turn done only under a check is refused only where the check fails. -/
theorem eq_false_of_guard_refused {w : Bool} {t : State} {q r : Refusal}
    (h : (if w then Fetched.done t else .refused q) = .refused r) : w = false := by
  cases w with
  | false => rfl
  | true => simp at h

/-- A statement that is refused is ill formed in the CALLER's program (R98, log 17). -/
theorem illFormed_of_stmtTurn_refused {st : Stmt} {s : State} {r : Refusal}
    (h : stmtTurn st s = .refused r) : st.wellFormed s.program = false := by
  cases st with
  | op a => exact (accessTurn_refused_iff.mp h).1
  | label l => simp [stmtTurn] at h
  | halt => simp [stmtTurn] at h
  | jmp l => exact eq_false_of_guard_refused h
  | jeq reg f v l => exact eq_false_of_guard_refused h
  | jne reg f v l => exact eq_false_of_guard_refused h

/-- A CALLER's turn that is refused has an ill-formed statement next. -/
theorem illFormed_of_callerTurn_refused {s : State} {r : Refusal}
    (h : callerTurn s = .refused r) :
    ∃ st, s.program[s.callerPc]? = some st ∧ st.wellFormed s.program = false := by
  unfold callerTurn at h
  split at h
  next => cases h
  next st hst => exact ⟨st, hst, illFormed_of_stmtTurn_refused h⟩

/-- The ENGINE's turn, and the TIMEOUT agent's, is never refused. -/
theorem engineTurn_ne_refused (s : State) (r : Refusal) : engineTurn s ≠ .refused r := by
  unfold engineTurn
  split
  · split
    · simp
    · split <;> simp
  · simp

/-- A turn that is refused is an access R22 does not have or a CALLER's ill-formed statement. -/
theorem illFormed_of_fetch_refused {s : State} {r : Refusal} (h : fetch s = .refused r) :
    s.nextTurn.wellFormed = false ∨
      s.nextTurn = .caller ∧
        ∃ st, s.program[s.callerPc]? = some st ∧ st.wellFormed s.program = false := by
  cases turn : s.nextTurn with
  | engine =>
    simp only [fetch, turn] at h
    exact absurd h (engineTurn_ne_refused _ r)
  | caller =>
    simp only [fetch, turn] at h
    exact .inr ⟨rfl, by simpa using illFormed_of_callerTurn_refused h⟩
  | access a =>
    simp only [fetch, turn] at h
    exact .inl (accessTurn_refused_iff.mp h).1
  | terminal b => simp [fetch, turn] at h
  | reset => simp [fetch, turn] at h

/-- Settles O7: only `accessTurn` and `stmtTurn` refuse, each by its well-formedness check, and exec answers a next state on every arm. -/
theorem onlyIllFormedTurnsAreRefused : Obligations.OnlyIllFormedTurnsAreRefused := by
  refine ⟨step_ne_fault, fun s hturn hstmt => ?_, fun s a turn ha => ?_⟩
  · refine step_eq_next_of_not_refused fun r hf => ?_
    rcases illFormed_of_fetch_refused hf with hbad | ⟨turn, st, hst, hbad⟩
    · simp [hturn] at hbad
    · simp [hstmt turn st hst] at hbad
  · refine step_refused_iff.mpr ?_
    simp only [fetch, turn]
    exact accessTurn_refused_iff.mpr ⟨ha, rfl⟩

/-! ### Decimal digits -/

@[simp] theorem decDigits_zero (v : Nat) : decDigits 0 v = [] := rfl

/-- `dec_n` one digit at a time: the most significant digit first (R16). -/
theorem decDigits_succ (n v : Nat) :
    decDigits (n + 1) v = BitVec.ofNat 8 (0x30 + v / 10 ^ n % 10) :: decDigits n v := by
  simp only [decDigits, List.range_succ_eq_map, List.map_cons, List.map_map]
  congr 1
  refine List.map_congr_left fun k _ => ?_
  simp [Nat.sub_sub, Nat.add_comm]

/-- The byte `0x30 + d` is a digit, the one that stands for `d` (R16). -/
theorem isDigit_ofNat {d : Nat} (h : d < 10) : isDigit (BitVec.ofNat 8 (0x30 + d)) = true := by
  have : (0x30 + d) % 2 ^ 8 = 0x30 + d := Nat.mod_eq_of_lt (by omega)
  simp only [isDigit, BitVec.toNat_ofNat, this, Bool.and_eq_true, decide_eq_true_eq]
  omega

theorem digitValue_ofNat {d : Nat} (h : d < 10) :
    digitValue (BitVec.ofNat 8 (0x30 + d)) = d := by
  simp only [digitValue, BitVec.toNat_ofNat]
  omega

theorem digitValue_lt {b : Byte} (h : isDigit b = true) : digitValue b < 10 := by
  simp only [isDigit, Bool.and_eq_true, decide_eq_true_eq] at h
  simp only [digitValue]
  omega

/-- A digit is the byte of its value. -/
theorem ofNat_digitValue {b : Byte} (h : isDigit b = true) :
    BitVec.ofNat 8 (0x30 + digitValue b) = b := by
  simp only [isDigit, Bool.and_eq_true, decide_eq_true_eq] at h
  apply BitVec.eq_of_toNat_eq
  simp only [digitValue, BitVec.toNat_ofNat]
  omega

@[simp] theorem digitsOk_cons (b : Byte) (bs : List Byte) :
    digitsOk (b :: bs) = (isDigit b && digitsOk bs) := rfl

/-- `dec_n` writes digits only. -/
theorem digitsOk_decDigits (n v : Nat) : digitsOk (decDigits n v) = true := by
  induction n with
  | zero => rfl
  | succ n ih =>
    rw [decDigits_succ, digitsOk_cons, ih, isDigit_ofNat (Nat.mod_lt _ (by decide))]
    rfl

/-- The digits written are those of `v`'s low `n` places (log 28). -/
theorem parseDec_decDigits (n v : Nat) : parseDec (decDigits n v) = v % 10 ^ n := by
  induction n with
  | zero => simp [parseDec, Nat.mod_one]
  | succ n ih =>
    rw [decDigits_succ, parseDec, ih, digitValue_ofNat (Nat.mod_lt _ (by decide)),
      decDigits_length, Nat.mod_pow_succ]
    ring

/-- Digits beyond the `n` lowest places do not show in `dec_n`. -/
theorem decDigits_mul_pow_add (n c v : Nat) :
    decDigits n (c * 10 ^ n + v) = decDigits n v := by
  induction n generalizing c with
  | zero => rfl
  | succ n ih =>
    have e : c * 10 ^ (n + 1) + v = c * 10 * 10 ^ n + v := by ring
    have hd : (c * 10 * 10 ^ n + v) / 10 ^ n % 10 = v / 10 ^ n % 10 := by
      rw [Nat.add_comm, Nat.add_mul_div_right _ _ (by positivity), Nat.add_mul_mod_self_right]
    rw [e, decDigits_succ, decDigits_succ, hd, ih]

/-- `n` digits parse to a number below `10^n`. -/
theorem parseDec_lt {f : List Byte} (h : digitsOk f = true) : parseDec f < 10 ^ f.length := by
  induction f with
  | nil => simp [parseDec]
  | cons b bs ih =>
    simp only [digitsOk_cons, Bool.and_eq_true] at h
    obtain ⟨hb, hbs⟩ := h
    calc parseDec (b :: bs)
        < digitValue b * 10 ^ bs.length + 10 ^ bs.length := Nat.add_lt_add_left (ih hbs) _
      _ = (digitValue b + 1) * 10 ^ bs.length := by ring
      _ ≤ 10 * 10 ^ bs.length := Nat.mul_le_mul_right _ (digitValue_lt hb)
      _ = 10 ^ (b :: bs).length := by rw [List.length_cons, pow_succ, Nat.mul_comm]

/-- Digits are `dec_n` of the number they parse to. -/
theorem decDigits_parseDec {f : List Byte} (h : digitsOk f = true) :
    decDigits f.length (parseDec f) = f := by
  induction f with
  | nil => rfl
  | cons b bs ih =>
    simp only [digitsOk_cons, Bool.and_eq_true] at h
    obtain ⟨hb, hbs⟩ := h
    have hd : (digitValue b * 10 ^ bs.length + parseDec bs) / 10 ^ bs.length = digitValue b := by
      rw [Nat.add_comm, Nat.add_mul_div_right _ _ (by positivity),
        Nat.div_eq_of_lt (parseDec_lt hbs), Nat.zero_add]
    rw [List.length_cons, parseDec, decDigits_succ, hd, Nat.mod_eq_of_lt (digitValue_lt hb),
      ofNat_digitValue hb, decDigits_mul_pow_add, ih hbs]

/-- Settles O15: both directions digit by digit, by induction on the number of digits and on the sequence. -/
theorem digitsParseBack : Obligations.DigitsParseBack := by
  refine ⟨fun n v hv => ⟨?_, digitsOk_decDigits n v, decDigits_length n v⟩,
    fun f hf => ⟨parseDec_lt hf, decDigits_parseDec hf⟩⟩
  rw [parseDec_decDigits, Nat.mod_eq_of_lt hv]

/-! ### The invariant at launch -/

/-- At launch the ENGINE is IDLE, nothing is saved and no command has finished, BUF is empty: the clauses about a command in progress have nothing to say, and R8's constraint is given. -/
theorem State.inv_launch {p : Params} (h : p.wellFormed = true) (q : List Byte) :
    (State.launch p q).Inv where
  params := h
  bufWf := Memory.wf_launch p q
  bufWithin := by simp [State.launch]
  bufLen := Nat.zero_le _
  busy := by simp [State.launch, Status.reset]
  saved := by simp [State.launch]
  savedWritten := by simp [State.launch]
  codes := by simp [State.launch, Status.reset, Err.reset]
  noOutcome := fun hi => absurd rfl hi
  eotMissing := by simp [State.launch, Err.reset]
  noCurrency := by simp [State.launch, Err.reset]
  respValid := by simp [State.launch, Status.reset]
  askFrame := by simp [State.launch, EngineState.sending]
  noFrameYet := by simp [State.launch, EngineState.receiving]
  expN := by simp [State.launch, EngineState.sizeKnown]
  reading := by simp [State.launch]
  frameRead := by simp [State.launch, EngineState.frameRead]

/-- Settles O9: `State.reset` is the launch with the test instantiation of the parameters (log 4), which R8 allows. -/
theorem invariantHoldsAtLaunch : Obligations.InvariantHoldsAtLaunch :=
  ⟨fun _ q hp => State.inv_launch hp q, State.inv_launch (by decide) []⟩

end Sys2Proof.Machine

/-! PROOFS. The statements about what a step does to the state: RECEIVE's transitions and the control bytes, the CALLER's reads and writes, and what every step keeps. -/

namespace Sys2Proof.Machine

/-! ### The read-wait states: a byte delivered, a timeout -/

section ReadWait

variable {s : State} (b : Byte)

theorem deliver_of_sAwaitAck (h : s.engine = .sAwaitAck) : deliver b s = awaitAckDeliver b s := by
  simp [deliver, h]

theorem deliver_of_sAwaitPostAck (h : s.engine = .sAwaitPostAck) :
    deliver b s = awaitPostAckDeliver b s := by
  simp [deliver, h]

theorem deliver_of_rAwaitEnq (h : s.engine = .rAwaitEnq) : deliver b s = awaitEnqDeliver b s := by
  simp [deliver, h]

theorem deliver_of_rReading (h : s.engine = .rReading) : deliver b s = readingDeliver b s := by
  simp [deliver, h]

theorem deliver_of_rAwaitEot (h : s.engine = .rAwaitEot) : deliver b s = awaitEotDeliver b s := by
  simp [deliver, h]

/-- R172: in R_AWAIT_ENQ any byte but ENQ ends the command, RD_GOT and RD_BYTE holding it (R39, log 12). -/
theorem awaitEnqDeliver_other (hs : s.savedOk) (hb : b ≠ Config.enq) :
    awaitEnqDeliver b s =
      { s.ended .noAnswer .none b 1 with rdGot := true, rdByte := b } := by
  have hg : (s.readGot b).savedOk := hs
  rw [awaitEnqDeliver, if_neg hb, State.finish_eq_ended hg]
  rfl

theorem awaitEnqTimeout_eq (hs : s.savedOk) :
    awaitEnqTimeout s = { s.ended .noAnswer .none 0 0 with rdGot := false } := by
  have hg : s.readTimedOut.savedOk := hs
  rw [awaitEnqTimeout, State.finish_eq_ended hg]
  rfl

/-- R153: in S_AWAIT_ACK any byte but ACK ends the command with INITIALIZATION_FAILED. -/
theorem awaitAckDeliver_other (hs : s.savedOk) (hb : b ≠ Config.ack) :
    awaitAckDeliver b s =
      { s.ended .error .initializationFailed b 1 with rdGot := true, rdByte := b } := by
  have hg : (s.readGot b).savedOk := hs
  rw [awaitAckDeliver, if_neg hb, State.raise_eq_ended hg]
  rfl

/-- R174: in R_READING a byte that leaves the read incomplete is stored at BUF[RX_COUNT], and that is all. -/
theorem readingDeliver_incomplete (h : s.rxCount.toNat + 1 < s.expN.toNat) :
    readingDeliver b s =
      { s with buf := s.buf.write s.rxCount.toNat b,
               rxCount := BitVec.ofNat 16 (s.rxCount.toNat + 1) } := by
  have hc : s.rxCount + 1 = BitVec.ofNat 16 (s.rxCount.toNat + 1) := by bv_omega
  have hne : BitVec.ofNat 16 (s.rxCount.toNat + 1) ≠ s.expN := by bv_omega
  simp only [readingDeliver, hc, if_neg hne]

/-- The byte a control byte's instruction stores in R_READING, and BUF around it. -/
theorem exec_wire_stores {i : Instr} (hi : i.format = .wire8) (hr : s.engine = .rReading)
    (h : s.rxCount.toNat + 1 < s.expN.toNat) :
    ∃ m : Memory, exec i s =
        .next { s with buf := m, rxCount := BitVec.ofNat 16 (s.rxCount.toNat + 1) } ∧
      m.read s.rxCount.toNat = some i.byte ∧
      ∀ k, k ≠ s.rxCount.toNat → m.read k = s.buf.read k := by
  refine ⟨s.buf.write s.rxCount.toNat i.byte, ?_, Memory.read_write_same .., fun k hk =>
    Memory.read_write_other _ _ hk⟩
  rw [exec_wire hi, deliver_of_rReading _ hr, readingDeliver_incomplete _ h]

end ReadWait

/-- Settles O36: R_AWAIT_ENQ is a read-wait state, so the step is the delivery or the timeout; a byte other than ENQ and a timeout finish with the saved timeout restored. -/
theorem receiveAwaitsTheEnq : Obligations.ReceiveAwaitsTheEnq := by
  intro s hr hs
  have hw : s.engine.readWait = true := by simp [hr, EngineState.readWait]
  refine ⟨?_, fun b hb => ?_, fun hq => ?_⟩
  · rw [step_incoming _ hw, deliver_of_rAwaitEnq _ hr]
    rfl
  · rw [step_incoming _ hw, deliver_of_rAwaitEnq _ hr, awaitEnqDeliver_other _ hs hb]
  · rw [step_timeout hw hq]
    simp only [timeoutStep, hr, awaitEnqTimeout_eq hs]

/-- Settles O41: R_VERIFYING waits for nothing and looks at no checksum; R_AWAIT_EOT delivers the byte or times out. -/
theorem receiveAcknowledgesAndAwaitsEot : Obligations.ReceiveAcknowledgesAndAwaitsEot := by
  intro s
  refine ⟨fun hr => ?_, fun hr => ?_⟩
  · rw [step_internal (by simp [hr, EngineState.readWait]), internalStep, hr]
    rfl
  · have hw : s.engine.readWait = true := by simp [hr, EngineState.readWait]
    refine ⟨fun b => ?_, fun hq => ?_⟩
    · rw [step_incoming _ hw, deliver_of_rAwaitEot _ hr]
      rfl
    · rw [step_timeout hw hq, timeoutStep, hr]
      rfl

/-- Settles O44: a control byte as an instruction is the delivery of its byte, whose meaning is the transition of the state PEHE is in. -/
theorem controlBytesActWhereRecognised : Obligations.ControlBytesActWhereRecognised := by
  intro s
  refine ⟨fun h => ?_, fun h => ?_, fun h => ?_, fun h hs => ?_, fun h => ?_, fun h => ?_,
    fun h hn => ⟨exec_wire_stores rfl h hn, exec_wire_stores rfl h hn⟩⟩
  · rw [exec_wire rfl, deliver_of_sAwaitAck _ h]
    rfl
  · rw [exec_wire rfl, deliver_of_sAwaitPostAck _ h]
    rfl
  · rw [exec_wire rfl, deliver_of_sAwaitPostAck _ h]
    rfl
  · rw [exec_wire rfl, deliver_of_sAwaitAck _ h, awaitAckDeliver_other _ hs (by decide)]
    rfl
  · rw [exec_wire rfl, deliver_of_rAwaitEnq _ h]
    rfl
  · rw [exec_wire rfl, deliver_of_rAwaitEot _ h]
    rfl

/-! ### A CALLER's write -/

theorem State.busyWrite_eq (s : State) :
    s.busyWrite = { s with status := { s.status with overrun := true },
                           faults := { s.faults with busyWrite := true } } := rfl

theorem State.callerWrite_busy {s : State} {r : Reg} (v : Nat) (hb : s.status.busy = true)
    (hr : r.rights ≠ .readOnly) : s.callerWrite r.number v = s.busyWrite := by
  simp [State.callerWrite, hr, hb]

theorem State.callerWriteElem_busy {s : State} {r : Reg} {i : Nat} (v : Nat)
    (hb : s.status.busy = true) (hi : i < s.arrayLength r) :
    s.callerWriteElem r.number i v = s.busyWrite := by
  simp [State.callerWriteElem, hb, Nat.not_le.mpr hi]

theorem State.callerWriteElem_outOfRange {s : State} {r : Reg} {i : Nat} (v : Nat)
    (hi : s.arrayLength r ≤ i) : s.callerWriteElem r.number i v = s := by
  simp [State.callerWriteElem, hi]

/-- No byte array is read-only (R21). -/
theorem Reg.isArray_of_readOnly {r : Reg} (h : r.rights = .readOnly) : r.isArray = false := by
  revert h
  cases r <;> decide

/-- A write that R21 gives no register, or a read-only one, has no effect (R23). -/
theorem State.callerWrite_noEffect {s : State} {n : Nat} (v : Nat)
    (h : (Reg.ofNumber n).all (fun r => decide (r.rights = .readOnly)) = true) :
    s.callerWrite n v = s := by
  unfold State.callerWrite
  cases hn : Reg.ofNumber n with
  | none => rfl
  | some r =>
    have hr : r.rights = .readOnly := by simpa [hn] using h
    simp [hr]

/-- A step that writes CMD with BUSY = 1, whether the word is a command or illegal. -/
theorem step_writeCmd_busy {s : State} (v : Nat) (hb : s.status.busy = true) :
    step { s with schedule := .access (.write Reg.cmd.number v) :: s.schedule } =
      .next s.busyWrite := by
  have hw : (Access.write Reg.cmd.number v).wellFormed = true := by
    simp [Access.wellFormed, Reg.isArray, Reg.shape]
  rw [step_access rfl, accessTurn, if_pos hw]
  simp only [if_true]
  cases hd : decode .cmd8 [BitVec.ofNat 8 v] with
  | ok p => exact exec_busy (decode_cmd8_isCommand hd) hb
  | error e => exact congrArg Host.Outcome.next (State.command_busy hb _)

/-- Settles O46: the refused write is the same for a command, an illegal word, a register and an element. -/
theorem writesWhileBusyAreRefused : Obligations.WritesWhileBusyAreRefused := by
  intro s r v i hb
  rw [← State.busyWrite_eq]
  refine ⟨fun hr ha => ?_, fun ha hi => ?_⟩
  · by_cases hc : r = .cmd
    · subst hc
      exact step_writeCmd_busy v hb
    · rw [step_write ha hc rfl]
      exact congrArg Host.Outcome.next (State.callerWrite_busy v hb hr)
  · rw [step_writeElem ha rfl]
    exact congrArg Host.Outcome.next (State.callerWriteElem_busy v hb hi)

/-! ### A CALLER's read -/

theorem State.callerRead_unmapped {s : State} {n : Nat} (h : Reg.ofNumber n = none) :
    s.callerRead n = { s with rdata := 0 } := by
  simp [State.callerRead, h]

theorem State.callerRead_busy {s : State} {r : Reg} (hb : s.status.busy = true)
    (hr : r ≠ .status) :
    s.callerRead r.number = { s with rdata := s.anyValue r 0, draws := s.draws + 1 } := by
  simp [State.callerRead, hb, hr]

theorem State.callerReadElem_busy {s : State} {r : Reg} {i : Nat} (hb : s.status.busy = true)
    (hi : i < s.arrayLength r) :
    s.callerReadElem r.number i = { s with rdata := s.anyValue r i, draws := s.draws + 1 } := by
  simp [State.callerReadElem, hb, Nat.not_le.mpr hi]

theorem State.callerReadElem_outOfRange {s : State} {r : Reg} {i : Nat}
    (hi : s.arrayLength r ≤ i) : s.callerReadElem r.number i = { s with rdata := 0 } := by
  simp [State.callerReadElem, hi]

/-- With BUSY = 0 a read of an unwritten register records F_UNWRITTEN (R43). -/
theorem State.callerRead_unwritten {s : State} {r : Reg} (hb : s.status.busy = false)
    (hw : s.regWritten r = false) :
    s.callerRead r.number = { s.faulted with rdata := s.regValue r } := by
  simp [State.callerRead, hb, hw, State.noteRead, State.faulted, FaultSet.record]

/-- With BUSY = 0 a read of an unwritten element records F_UNWRITTEN (R43). -/
theorem State.callerReadElem_unwritten {s : State} {r : Reg} {i : Nat}
    (hb : s.status.busy = false) (hi : i < s.arrayLength r)
    (hw : (s.elemSlot r i).written = false) :
    s.callerReadElem r.number i =
      { s.faulted with rdata := (s.bitsAt r.number i (s.elemSlot r i)).toNat } := by
  simp [State.callerReadElem, hb, hw, Nat.not_le.mpr hi, State.noteRead, State.faulted,
    FaultSet.record]

/-- What a CALLER's read can leave: the value it gives, and of the model's own a draw and F_UNWRITTEN. -/
def State.ReadLeaves (s t : State) : Prop :=
  ∃ v, t = { s with rdata := v } ∨ t = { s with rdata := v, draws := s.draws + 1 } ∨
    t = { s.faulted with rdata := v }

theorem State.callerRead_leaves (s : State) (n : Nat) : s.ReadLeaves (s.callerRead n) := by
  unfold State.callerRead
  cases Reg.ofNumber n with
  | none => exact ⟨_, .inl rfl⟩
  | some r =>
    dsimp only
    split
    · exact ⟨_, .inr (.inl rfl)⟩
    · cases s.regWritten r with
      | true => exact ⟨_, .inl rfl⟩
      | false => exact ⟨_, .inr (.inr rfl)⟩

theorem State.callerReadElem_leaves (s : State) (n i : Nat) :
    s.ReadLeaves (s.callerReadElem n i) := by
  unfold State.callerReadElem
  cases Reg.ofNumber n with
  | none => exact ⟨_, .inl rfl⟩
  | some r =>
    dsimp only
    split
    · exact ⟨_, .inl rfl⟩
    · split
      · exact ⟨_, .inr (.inl rfl)⟩
      · cases (s.elemSlot r i).written with
        | true => exact ⟨_, .inl rfl⟩
        | false => exact ⟨_, .inr (.inr rfl)⟩

/-- The step of a read R22 has, of a number mapped or not. -/
theorem step_readAccess {s : State} {n : Nat} (h : (Access.read n).wellFormed = true) :
    step { s with schedule := .access (.read n) :: s.schedule } = .next (s.callerRead n) := by
  rw [step_access rfl, accessTurn, if_pos h]

theorem step_readElemAccess {s : State} {n i : Nat}
    (h : (Access.readElem n i).wellFormed = true) :
    step { s with schedule := .access (.readElem n i) :: s.schedule } =
      .next (s.callerReadElem n i) := by
  rw [step_access rfl, accessTurn, if_pos h]

/-- The step of a read of a written register, with BUSY = 0 or of STATUS: the CALLER gets its value. -/
theorem step_read_written {s : State} {r : Reg} {later : List Turn} (ha : r.isArray = false)
    (hb : s.status.busy = false ∨ r = .status) (hw : s.regWritten r = true)
    (h : s.schedule = .access (.read r.number) :: later) :
    step s = .next { s with schedule := later, rdata := s.regValue r } := by
  rw [step_read ha h]
  exact congrArg Host.Outcome.next (State.callerRead_written hb hw)

/-- The step of a read of a written element: the CALLER gets its byte. -/
theorem step_readElem_written {s : State} {r : Reg} {i : Nat} {b : Byte} {later : List Turn}
    (ha : r.isArray = true) (hb : s.status.busy = false) (hi : i < s.arrayLength r)
    (hw : s.elemSlot r i = Slot.of b)
    (h : s.schedule = .access (.readElem r.number i) :: later) :
    step s = .next { s with schedule := later, rdata := b.toNat } := by
  rw [step_readElem ha h]
  exact congrArg Host.Outcome.next (State.callerReadElem_written hb hi hw)

theorem State.readGives_read {s : State} {r : Reg} (ha : r.isArray = false)
    (hb : s.status.busy = false ∨ r = .status) (hw : s.regWritten r = true) :
    s.readGives (.read r.number) (s.regValue r) :=
  step_read_written ha hb hw rfl

theorem State.readGives_readElem {s : State} {r : Reg} {i : Nat} {b : Byte}
    (ha : r.isArray = true) (hb : s.status.busy = false) (hi : i < s.arrayLength r)
    (hw : s.elemSlot r i = Slot.of b) : s.readGives (.readElem r.number i) b.toNat :=
  step_readElem_written ha hb hi hw rfl

/-- Settles O47: STATUS reads as ever, the rest draws a value and records no fault. -/
theorem readsWhileBusyAreHarmless : Obligations.ReadsWhileBusyAreHarmless := by
  intro s r i hb
  refine ⟨fun hr => ?_, fun ha hr => ?_, fun ha hi => ?_⟩
  · subst hr
    exact State.readGives_read rfl (.inr rfl) rfl
  · exact ⟨_, (step_read ha rfl).trans
      (congrArg Host.Outcome.next (State.callerRead_busy hb hr))⟩
  · exact ⟨_, (step_readElem ha rfl).trans
      (congrArg Host.Outcome.next (State.callerReadElem_busy hb hi))⟩

/-- Settles O50: a write R23 gives no effect is never a write to CMD, which is write-only. -/
theorem readOnlyAndUnmappedRegisters : Obligations.ReadOnlyAndUnmappedRegisters := by
  intro s n v
  refine ⟨fun h => ?_, fun h => ?_⟩
  · have hw : (Access.write n v).wellFormed = true := by
      cases hn : Reg.ofNumber n with
      | none => simp [Access.wellFormed, hn]
      | some r =>
        have hr : r.rights = .readOnly := by simpa [hn] using h
        have ha : r.isArray = false := Reg.isArray_of_readOnly hr
        simp [Access.wellFormed, hn, ha]
    have hc : n ≠ Reg.cmd.number := by
      rintro rfl
      simp [Reg.rights] at h
    rw [step_access rfl, accessTurn, if_pos hw]
    simp only [if_neg hc]
    exact congrArg Host.Outcome.next (State.callerWrite_noEffect v h)
  · rw [step_readAccess (by simp [Access.wellFormed, h]), State.callerRead_unmapped h]

/-- Settles O51: the two kinds of read, by what they leave; an unwritten one takes the branch that records the fault. -/
theorem callerReadsHaveNoSideEffect : Obligations.CallerReadsHaveNoSideEffect := by
  intro s a hw hnw hnwe
  cases a with
  | write n v => exact absurd rfl (hnw n v)
  | writeElem n i v => exact absurd rfl (hnwe n i v)
  | read n =>
    rw [step_readAccess hw]
    refine ⟨?_, fun hb hu => ?_⟩
    · simpa only [Host.Outcome.next.injEq, State.ReadLeaves] using s.callerRead_leaves n
    · rcases hu with ⟨r, ha, hr⟩ | ⟨r, i, ha, hi, hr⟩
      · cases ha
        exact ⟨_, congrArg Host.Outcome.next (State.callerRead_unwritten hb hr)⟩
      · cases ha
  | readElem n i =>
    rw [step_readElemAccess hw]
    refine ⟨?_, fun hb hu => ?_⟩
    · simpa only [Host.Outcome.next.injEq, State.ReadLeaves] using s.callerReadElem_leaves n i
    · rcases hu with ⟨r, ha, hr⟩ | ⟨r, j, ha, hi, hr⟩
      · cases ha
      · cases ha
        exact ⟨_, congrArg Host.Outcome.next (State.callerReadElem_unwritten hb hi hr)⟩

/-! ### Reading back what was written -/

theorem State.OnlyChanged.schedule_eq {s t : State} {r : Reg} (h : s.OnlyChanged t r) :
    t.schedule = s.schedule := (congrArg State.schedule h.rest :)

theorem State.OnlyChanged.status_eq {s t : State} {r : Reg} (h : s.OnlyChanged t r) :
    t.status = s.status := (congrArg State.status h.rest :)

theorem State.OnlyChanged.params_eq {s t : State} {r : Reg} (h : s.OnlyChanged t r) :
    t.params = s.params := (congrArg State.params h.rest :)

theorem State.OnlyChanged.arrayLength_eq {s t : State} {r : Reg} (h : s.OnlyChanged t r)
    (q : Reg) : t.arrayLength q = s.arrayLength q := by
  simp only [State.arrayLength, h.params_eq]

theorem State.regWritten_storeReg (s : State) (r : Reg) (v : Nat) :
    (s.storeReg r v).regWritten r = true := by
  cases r <;> rfl

/-- A numeric register but CTRL and BUF_LEN stores the value mod 2^w (R22). -/
theorem State.regValue_storeReg_numeric (s : State) {r : Reg} {w : Nat} (v : Nat)
    (hr : r.rights = .readWrite) (hs : r.shape = .numeric w) (hl : r ≠ .bufLen)
    (hc : r ≠ .ctrl) : (s.storeReg r v).regValue r = v % 2 ^ w := by
  cases r with
  | bufLen => exact absurd rfl hl
  | ctrl => exact absurd rfl hc
  | cmd | status | err | errInfo0 | errInfo1 | lrcValue => exact absurd hr (by decide)
  | timeoutArg | buf | askPos | askCurrency | askPrivate | askDelay | askAuth | respPos
  | respReport | respCurrency | respPrivate => cases hs
  | askAmtMant | askAmtScale | askAnswerFlag | askPaymentMode | askTransactionType | respResult
  | respAmount | respPaymentMode | respReportLen =>
    cases hs
    exact BitVec.toNat_ofNat v _

theorem State.regValue_storeReg_bufLen (s : State) (v : Nat) :
    (s.storeReg .bufLen v).regValue .bufLen = min (v % 2 ^ 16) s.params.bufCap := by
  simp only [State.storeReg, State.regValue, BitVec.toNat_ofNat]
  exact Nat.mod_eq_of_lt (by omega)

theorem State.regValue_storeReg_timeoutArg (s : State) (v : Nat) :
    (s.storeReg .timeoutArg v).regValue .timeoutArg = v := rfl

theorem Ctrl.word_toNat (c : Ctrl) : c.word.toNat = c.lenient.toNat := by
  obtain ⟨lenient⟩ := c
  cases lenient <;> rfl

theorem State.regValue_storeReg_ctrl (s : State) (v : Nat) :
    (s.storeReg .ctrl v).regValue .ctrl = v % 2 := by
  simp only [State.storeReg, State.regValue, Ctrl.word_toNat, Ctrl.ofWord, BitVec.getLsbD_ofNat,
    Nat.testBit_zero]
  rcases Nat.mod_two_eq_zero_or_one v with h | h <;> simp [h]

/-- Settles O48: with BUSY = 0 the write is `storeReg`, which touches that register alone, and the read then gives what it holds. -/
theorem writtenRegistersReadBack : Obligations.WrittenRegistersReadBack := by
  intro s r v w later hb hr ha hsch
  obtain ⟨u, hu⟩ : ∃ u, u = { s with schedule := .access (.read r.number) :: later } := ⟨_, rfl⟩
  have hbu : u.status.busy = false := by rw [hu]; exact hb
  have hnr : r.rights ≠ .readOnly := by simp [hr]
  have hnc : r ≠ .cmd := by rintro rfl; exact absurd hr (by decide)
  have honly := u.onlyChanged_storeReg r v
  have hwritten := u.regWritten_storeReg r v
  rw [← hu]
  refine ⟨u.storeReg r v, (u.storeReg r v).regValue r, ?_, ?_, honly, hwritten, ?_, ?_,
    u.regValue_storeReg_numeric v hr, ?_⟩
  · rw [step_write ha hnc hsch, ← hu, State.callerWrite_idle v hbu hnr]
  · exact step_read_written ha (.inl (by rw [honly.status_eq, hbu])) hwritten
      (by rw [honly.schedule_eq, hu])
  · rintro rfl
    rw [u.regValue_storeReg_bufLen v, hu]
  · rintro rfl
    exact u.regValue_storeReg_timeoutArg v
  · rintro rfl
    exact u.regValue_storeReg_ctrl v

/-- Settles O49: in range the store and the read of one element with BUSY = 0; out of range both are without effect. -/
theorem writtenElementsReadBack : Obligations.WrittenElementsReadBack := by
  intro s r i v hb ha
  refine ⟨fun later hi hsch => ?_, fun hi => ⟨?_, ?_⟩⟩
  · obtain ⟨u, hu⟩ : ∃ u, u = { s with schedule := .access (.readElem r.number i) :: later } :=
      ⟨_, rfl⟩
    have hbu : u.status.busy = false := by rw [hu]; exact hb
    have hiu : i < u.arrayLength r := by rw [hu]; exact hi
    have honly := u.onlyChanged_storeElem r i (BitVec.ofNat 8 v)
    have hsame := State.elemSlot_storeElem_same (BitVec.ofNat 8 v) ha hiu
    rw [← hu]
    refine ⟨u.storeElem r i (BitVec.ofNat 8 v), ?_, ?_, hsame, fun j hj => ?_, honly⟩
    · rw [step_writeElem ha hsch, ← hu, State.callerWriteElem_idle v hbu hiu]
    · rw [← BitVec.toNat_ofNat]
      exact step_readElem_written ha (by rw [honly.status_eq, hbu])
        (by rw [honly.arrayLength_eq, hu]; exact hi) hsame (by rw [honly.schedule_eq, hu])
    · rw [State.elemSlot_storeElem_other _ ha hj, hu]
      rfl
  · rw [step_writeElem ha rfl]
    exact congrArg Host.Outcome.next (State.callerWriteElem_outOfRange v hi)
  · rw [State.readGives, step_readElem ha rfl]
    exact congrArg Host.Outcome.next (State.callerReadElem_outOfRange hi)

/-! ### The values and bit layouts reads give -/

/-- Two fields side by side: the high one counts in steps of the low one's range. -/
theorem toNat_append_eq_add {m n : Nat} (x : BitVec m) (y : BitVec n) :
    (x ++ y).toNat = x.toNat * 2 ^ n + y.toNat := by
  rw [BitVec.toNat_append, ← Nat.shiftLeft_add_eq_or_of_lt y.isLt, Nat.shiftLeft_eq]

/-- R26: the layout of STATUS. -/
theorem Status.word_toNat (s : Status) :
    s.word.toNat = s.busy.toNat + 2 * s.respValid.toNat + 4 * s.frameAvail.toNat +
      8 * s.check.toNat + 16 * s.outcome.code.toNat + 128 * s.overrun.toNat := by
  simp only [Status.word, toNat_append_eq_add, bit, BitVec.toNat_ofBool]
  omega

/-- R28: the layout of ERR. -/
theorem Err.word_toNat (e : Err) : e.word.toNat = e.code.code.toNat + 16 * e.eotMissing.toNat := by
  have h0 : (0 : BitVec 3).toNat = 0 := rfl
  simp only [Err.word, toNat_append_eq_add, bit, BitVec.toNat_ofBool, h0]
  omega

/-- R200: the values of OUTCOME count its names in order. -/
theorem CmdOutcome.code_toNat {o : CmdOutcome} {k : Nat}
    (h : [CmdOutcome.none, .ok, .sent, .rejected, .noAnswer, .response, .error][k]? = some o) :
    o.code.toNat = k := by
  obtain ⟨hk, rfl⟩ := List.getElem?_eq_some_iff.mp h
  exact (by decide : ∀ j : Fin 7, ([CmdOutcome.none, .ok, .sent, .rejected, .noAnswer, .response,
    .error][j.val]).code.toNat = j.val) ⟨k, hk⟩

/-- R201: the values of ERR.CODE count its names in order. -/
theorem ErrCode.code_toNat {c : ErrCode} {k : Nat}
    (h : [ErrCode.none, .checksumMismatch, .framingError, .lengthMismatch, .fieldFormatError,
      .amountOutOfRange, .initializationFailed, .truncatedAnswer, .missingTerminator,
      .unrecognizedAnswerFlag, .unknownCurrency, .emptyInput, .illegalCommand][k]? = some c) :
    c.code.toNat = k := by
  obtain ⟨hk, rfl⟩ := List.getElem?_eq_some_iff.mp h
  exact (by decide : ∀ j : Fin 13, ([ErrCode.none, .checksumMismatch, .framingError,
    .lengthMismatch, .fieldFormatError, .amountOutOfRange, .initializationFailed, .truncatedAnswer,
    .missingTerminator, .unrecognizedAnswerFlag, .unknownCurrency, .emptyInput,
    .illegalCommand][j.val]).code.toNat = j.val) ⟨k, hk⟩

/-- An array register's element, as a CALLER's read reaches it. -/
theorem ByteReg.slot_of_getElem? {n : Nat} {x : ByteReg n} {i : Nat} {y : Slot Byte}
    (h : x[i]? = some y) : i < n ∧ x.slot i = y := by
  obtain ⟨hi, rfl⟩ := Vector.getElem?_eq_some_iff.mp h
  exact ⟨hi, by simp [ByteReg.slot, hi]⟩

/-- A read of a numeric register that is a slot of its block gives what was written there. -/
theorem State.readGives_slot {s : State} {r : Reg} {w : Nat} {x : Slot (BitVec w)} {v : BitVec w}
    (hb : s.status.busy = false) (ha : r.isArray = false) (hw : s.regWritten r = x.written)
    (hv : s.regValue r = (s.bitsAt r.number 0 x).toNat) (hx : x = Slot.of v) :
    s.readGives (.read r.number) v.toNat := by
  subst hx
  have h := State.readGives_read ha (.inl hb) hw
  rwa [hv, State.bitsAt_of] at h

/-- A read of an element of a byte-array register of a block gives the byte written there. -/
theorem State.readGives_byteReg {s : State} {r : Reg} {n i : Nat} {x : ByteReg n} {b : Byte}
    (hb : s.status.busy = false) (ha : r.isArray = true) (hl : s.arrayLength r = n)
    (he : s.elemSlot r i = x.slot i) (hx : x[i]? = some (Slot.of b)) :
    s.readGives (.readElem r.number i) b.toNat := by
  obtain ⟨hi, hslot⟩ := ByteReg.slot_of_getElem? hx
  exact State.readGives_readElem ha hb (hl ▸ hi) (he.trans hslot)

theorem State.readGives_buf {s : State} {i : Nat} {b : Byte} (hb : s.status.busy = false)
    (hi : i < s.params.bufCap) (hr : s.buf.read i = some b) :
    s.readGives (.readElem Reg.buf.number i) b.toNat :=
  State.readGives_readElem rfl hb hi (by simp [State.elemSlot, hr])

/-- Settles O59: every register by its number, through the one law of a read of a written register or element, and the layouts of STATUS, CTRL and ERR. -/
theorem readsGiveTheRegisterValues : Obligations.ReadsGiveTheRegisterValues := by
  intro s
  refine ⟨fun k hk => ?_, fun hb => ⟨fun k hk => ?_,
    State.readGives_read (r := .cmd) rfl (.inl hb) rfl,
    ?_,
    State.readGives_read (r := .errInfo0) rfl (.inl hb) rfl,
    State.readGives_read (r := .errInfo1) rfl (.inl hb) rfl,
    State.readGives_read (r := .lrcValue) rfl (.inl hb) rfl,
    State.readGives_read (r := .bufLen) rfl (.inl hb) rfl,
    fun v hv => ?_,
    fun v => State.readGives_slot (r := .askAmtMant) hb rfl rfl rfl,
    fun v => State.readGives_slot (r := .askAmtScale) hb rfl rfl rfl,
    fun v => State.readGives_slot (r := .askAnswerFlag) hb rfl rfl rfl,
    fun v => State.readGives_slot (r := .askPaymentMode) hb rfl rfl rfl,
    fun v => State.readGives_slot (r := .askTransactionType) hb rfl rfl rfl,
    fun v => State.readGives_slot (r := .respResult) hb rfl rfl rfl,
    fun v => State.readGives_slot (r := .respAmount) hb rfl rfl rfl,
    fun v => State.readGives_slot (r := .respPaymentMode) hb rfl rfl rfl,
    fun v => State.readGives_slot (r := .respReportLen) hb rfl rfl rfl,
    fun i b => ⟨State.readGives_buf hb,
      State.readGives_byteReg (r := .askPos) hb rfl rfl rfl,
      State.readGives_byteReg (r := .askCurrency) hb rfl rfl rfl,
      State.readGives_byteReg (r := .askPrivate) hb rfl rfl rfl,
      State.readGives_byteReg (r := .askDelay) hb rfl rfl rfl,
      State.readGives_byteReg (r := .askAuth) hb rfl rfl rfl,
      State.readGives_byteReg (r := .respPos) hb rfl rfl rfl,
      State.readGives_byteReg (r := .respReport) hb rfl rfl rfl,
      State.readGives_byteReg (r := .respCurrency) hb rfl rfl rfl,
      State.readGives_byteReg (r := .respPrivate) hb rfl rfl rfl⟩⟩⟩
  · rw [← CmdOutcome.code_toNat hk, ← Status.word_toNat]
    exact State.readGives_read (r := .status) rfl (.inr rfl) rfl
  · rw [← ErrCode.code_toNat hk, ← Err.word_toNat]
    exact State.readGives_read (r := .err) rfl (.inl hb) rfl
  · rw [← Ctrl.word_toNat]
    exact State.readGives_read (r := .ctrl) rfl (.inl hb) rfl
  · have hv' : s.regValue .timeoutArg = v := by simp [State.regValue, State.timeoutAt, hv, Slot.of]
    rw [← hv']
    exact State.readGives_read (r := .timeoutArg) rfl (.inl hb)
      (by simp [State.regWritten, hv, Slot.of])

/-! ### The commands by their accept steps -/

/-- The accept step of each command (R206). A wire control byte has none. -/
def acceptStep : Instr → State → State
  | .lrc => lrcStep
  | .lrcCheck => lrcCheckStep
  | .encodeAsk => encodeAskStep
  | .decodeAsk => decodeAskStep
  | .decodeResponse => decodeResponseStep
  | .encodeResponse => encodeResponseStep
  | .send => sendStep
  | .receive => receiveStep
  | .enq | .ack | .nak | .eot | .stx | .etx => id

/-- A command's meaning is its accept step under the one wrapper of acceptance. -/
theorem exec_command {i : Instr} (hi : i.isCommand = true) (s : State) :
    exec i s = .next (s.command (acceptStep i)) := by
  cases i with
  | lrc | lrcCheck | encodeAsk | decodeAsk | decodeResponse | encodeResponse | send | receive => rfl
  | enq | ack | nak | eot | stx | etx => nomatch hi

/-! ### What every step keeps: LRC_VALUE, OVERRUN and FAULTS -/

/-- OVERRUN and the recorded faults of `s` are still there in `t`. -/
def State.Sticky (s t : State) : Prop :=
  (s.status.overrun = true → t.status.overrun = true) ∧
  (s.faults.unwritten = true → t.faults.unwritten = true) ∧
  (s.faults.busyWrite = true → t.faults.busyWrite = true)

/-- Of `s` to `t` no record is lost and LRC_VALUE stays: so with every operation but LRC and reset. -/
def State.Keeps (s t : State) : Prop := t.lrcValue = s.lrcValue ∧ s.Sticky t

theorem State.Keeps.refl (s : State) : s.Keeps s := ⟨rfl, id, id, id⟩

theorem State.Sticky.trans {s t u : State} (h : s.Sticky t) (k : t.Sticky u) : s.Sticky u := by
  obtain ⟨ho, hu, hb⟩ := h
  obtain ⟨ko, ku, kb⟩ := k
  exact ⟨ko ∘ ho, ku ∘ hu, kb ∘ hb⟩

theorem State.Keeps.trans {s t u : State} (h : s.Keeps t) (k : t.Keeps u) : s.Keeps u :=
  ⟨k.1.trans h.1, h.2.trans k.2⟩

theorem State.keeps_noteRead (s : State) (w : Bool) : s.Keeps (s.noteRead w) := by
  cases w with
  | true => exact .refl s
  | false => exact ⟨rfl, id, fun _ => rfl, id⟩

theorem State.keeps_busyWrite (s : State) : s.Keeps s.busyWrite :=
  ⟨rfl, fun _ => rfl, id, fun _ => rfl⟩

theorem State.keeps_restoreTimeout (s : State) : s.Keeps s.restoreTimeout := by
  unfold State.restoreTimeout
  split
  · exact s.keeps_noteRead _
  · exact .refl s

theorem State.keeps_finish (s : State) (o : CmdOutcome) (c : ErrCode) (i0 i1 : Byte) :
    s.Keeps (s.finish o c i0 i1) := by
  obtain ⟨hl, -, hu, hb⟩ := s.keeps_restoreTimeout
  exact ⟨hl, id, hu, hb⟩

theorem State.keeps_raise (s : State) (f : Failure) : s.Keeps (s.raise f) := s.keeps_finish ..

theorem State.keeps_command {f : State → State} (h : ∀ u : State, u.Keeps (f u)) (s : State) :
    s.Keeps (s.command f) := by
  unfold State.command
  split
  · exact s.keeps_busyWrite
  · exact h s.accept

/-! The accept steps of the commands but LRC. -/

theorem keeps_lrcCheckStep (s : State) : s.Keeps (lrcCheckStep s) := by
  unfold lrcCheckStep
  dsimp only
  split
  · exact (s.keeps_noteRead _).trans (State.keeps_finish ..)
  · split <;> exact (s.keeps_noteRead _).trans (State.keeps_finish ..)

theorem keeps_encodeAskStep (s : State) : s.Keeps (encodeAskStep s) := by
  unfold encodeAskStep
  split
  · exact (s.keeps_noteRead _).trans (State.keeps_finish ..)
  · exact (s.keeps_noteRead _).trans (State.keeps_raise ..)

theorem keeps_decodeAskStep (s : State) : s.Keeps (decodeAskStep s) := by
  unfold decodeAskStep
  split
  · exact (s.keeps_noteRead _).trans (State.keeps_finish ..)
  · exact (s.keeps_noteRead _).trans (State.keeps_raise ..)

theorem keeps_decodeResponseStep (s : State) : s.Keeps (decodeResponseStep s) := by
  unfold decodeResponseStep
  split
  · exact (s.keeps_noteRead _).trans (State.keeps_finish ..)
  · exact (s.keeps_noteRead _).trans (State.keeps_raise ..)

theorem keeps_encodeResponseStep (s : State) : s.Keeps (encodeResponseStep s) := by
  unfold encodeResponseStep
  split
  · exact (s.keeps_noteRead _).trans (State.keeps_finish ..)
  · exact (s.keeps_noteRead _).trans (State.keeps_raise ..)

theorem keeps_sendStep (s : State) : s.Keeps (sendStep s) := by
  unfold sendStep
  split
  · exact (s.keeps_noteRead _).trans (State.keeps_raise ..)
  · exact s.setTimeout.keeps_noteRead _

theorem keeps_receiveStep (s : State) : s.Keeps (receiveStep s) := s.setTimeout.keeps_noteRead _

theorem keeps_acceptStep {i : Instr} (hl : i ≠ .lrc) (s : State) : s.Keeps (acceptStep i s) := by
  cases i with
  | lrc => exact absurd rfl hl
  | lrcCheck => exact keeps_lrcCheckStep s
  | encodeAsk => exact keeps_encodeAskStep s
  | decodeAsk => exact keeps_decodeAskStep s
  | decodeResponse => exact keeps_decodeResponseStep s
  | encodeResponse => exact keeps_encodeResponseStep s
  | send => exact keeps_sendStep s
  | receive => exact keeps_receiveStep s
  | enq | ack | nak | eot | stx | etx => exact .refl s

theorem keeps_exec {i : Instr} {s t : State} (hi : i.isCommand = true) (hl : i ≠ .lrc)
    (h : exec i s = .next t) : s.Keeps t := by
  rw [exec_command hi] at h
  cases h
  exact State.keeps_command (keeps_acceptStep hl) s

/-- LRC writes LRC_VALUE, and loses no record either. -/
theorem sticky_lrcStep (s : State) : s.Sticky (lrcStep s) := by
  unfold lrcStep
  split
  · exact (State.keeps_raise { s with lrcValue := 0x00 } _).2
  · next v _ =>
    have hread : s.Sticky { s.noteInput with lrcValue := v } := (s.keeps_noteRead _).2
    exact hread.trans (State.keeps_finish ..).2

theorem sticky_execLrc {s t : State} (h : exec .lrc s = .next t) : s.Sticky t := by
  cases h
  unfold State.command
  split
  · exact s.keeps_busyWrite.2
  · exact sticky_lrcStep s.accept

/-! The ENGINE's transitions. -/

theorem keeps_framingCheck (s : State) : s.Keeps (framingCheck s) := by
  unfold framingCheck
  dsimp only
  split
  · exact (s.keeps_noteRead _).trans (State.keeps_raise ..)
  · exact s.keeps_noteRead _

theorem keeps_readingDeliver (b : Byte) (s : State) : s.Keeps (readingDeliver b s) := by
  unfold readingDeliver
  dsimp only
  split
  · exact keeps_framingCheck { s with buf := _, rxCount := _ }
  · exact .refl s

theorem keeps_deliver (b : Byte) (s : State) : s.Keeps (deliver b s) := by
  unfold deliver
  split
  · unfold awaitAckDeliver
    split
    · exact .refl s
    · exact (s.readGot b).keeps_raise _
  · unfold awaitPostAckDeliver
    split <;> exact .refl s
  · unfold awaitEnqDeliver
    split
    · exact .refl s
    · exact (s.readGot b).keeps_finish ..
  · exact keeps_readingDeliver b s
  · exact .refl s
  all_goals exact .refl s

theorem keeps_timeoutStep (s : State) : s.Keeps (timeoutStep s) := by
  unfold timeoutStep
  split
  · exact s.readTimedOut.keeps_raise _
  · exact .refl s
  · exact s.readTimedOut.keeps_finish ..
  · exact s.keeps_raise _
  all_goals exact .refl s

theorem keeps_acceptingStep (s : State) : s.Keeps (acceptingStep s) := by
  unfold acceptingStep
  dsimp only
  split
  · exact s.keeps_noteRead _
  · exact (s.keeps_noteRead _).trans (State.keeps_raise ..)

theorem State.keeps_noteEot (s : State) : s.Keeps s.noteEot := by
  unfold State.noteEot
  split <;> exact .refl s

theorem keeps_decodingStep (s : State) : s.Keeps (decodingStep s) := by
  have hread := (s.keeps_noteRead (s.bufWritten s.expN.toNat)).trans (State.keeps_noteEot _)
  unfold decodingStep
  dsimp only
  split
  · split
    · exact hread.trans (State.keeps_finish (State.keepFrame (State.writeResp _ _)) ..)
    · exact hread.trans (State.keeps_raise (State.keepFrame (State.writeResp _ _)) _)
  · split
    · exact hread.trans (State.keeps_raise (State.keepFrame _) _)
    · exact hread.trans (State.keeps_raise ..)

theorem keeps_internalStep (s : State) : s.Keeps (internalStep s) := by
  unfold internalStep
  split
  · exact s.keeps_noteRead _
  · exact (s.txWrite [Config.eot]).keeps_finish ..
  · exact (s.txWrite [Config.eot]).keeps_finish ..
  · exact keeps_acceptingStep s
  · exact .refl s
  · exact keeps_decodingStep s
  all_goals exact .refl s

/-! The CALLER's accesses but commands. -/

/-- STATE stays, and with it LRC_VALUE and the records: so with every access of a CALLER that is no command. -/
def State.KeepsState (s t : State) : Prop := t.engine = s.engine ∧ s.Keeps t

theorem State.KeepsState.refl (s : State) : s.KeepsState s := ⟨rfl, .refl s⟩

theorem State.KeepsState.trans {s t u : State} (h : s.KeepsState t) (k : t.KeepsState u) :
    s.KeepsState u := ⟨k.1.trans h.1, h.2.trans k.2⟩

theorem State.OnlyChanged.keepsState {s t : State} {r : Reg} (h : s.OnlyChanged t r) :
    s.KeepsState t := by
  have hf : t.faults = s.faults := (congrArg State.faults h.rest :)
  refine ⟨(congrArg State.engine h.rest :), (congrArg State.lrcValue h.rest :), ?_⟩
  rw [State.Sticky, h.status_eq, hf]
  exact ⟨id, id, id⟩

theorem State.ReadLeaves.keepsState {s t : State} (h : s.ReadLeaves t) : s.KeepsState t := by
  obtain ⟨v, rfl | rfl | rfl⟩ := h
  · exact .refl s
  · exact .refl s
  · exact ⟨rfl, s.keeps_noteRead false⟩

theorem State.keepsState_callerWrite (s : State) (n v : Nat) :
    s.KeepsState (s.callerWrite n v) := by
  unfold State.callerWrite
  split
  · exact .refl s
  · split
    · exact .refl s
    · split
      · exact ⟨rfl, s.keeps_busyWrite⟩
      · exact (s.onlyChanged_storeReg ..).keepsState

theorem State.keepsState_callerWriteElem (s : State) (n i v : Nat) :
    s.KeepsState (s.callerWriteElem n i v) := by
  unfold State.callerWriteElem
  split
  · exact .refl s
  · split
    · exact .refl s
    · split
      · exact ⟨rfl, s.keeps_busyWrite⟩
      · exact (s.onlyChanged_storeElem ..).keepsState

theorem State.keepsState_branch (s : State) (n : Nat) (f : Option Field) (v l : Nat)
    (onEqual : Bool) : s.KeepsState (s.branch n f v l onEqual) := by
  have hread := (s.callerRead_leaves n).keepsState
  unfold State.branch
  dsimp only
  split <;> exact hread

theorem State.accessState.keepsState {s u : State} (h : s.accessState u) : s.KeepsState u := by
  rcases h with rfl | rfl <;> exact .refl s

theorem State.accessState.status_eq {s u : State} (h : s.accessState u) :
    u.status = s.status := by
  rcases h with rfl | rfl <;> rfl

theorem State.keeps_illegalCommand (s : State) (c : Byte) : s.Keeps (s.illegalCommand c) :=
  State.keeps_command (fun u => u.keeps_raise _) s

/-- Every step but LRC and reset keeps LRC_VALUE and the records. -/
theorem StepDid.keeps {s t : State} (h : StepDid s t) :
    s.Keeps t ∨
      (∃ u, s.accessState u ∧ fetch s = .instr .lrc u ∧ exec .lrc u = .next t) ∨
      s.nextTurn = .reset ∧ t = s.popTurn.hardReset := by
  cases h with
  | deliver b q turn wait hq => exact .inl (keeps_deliver b { s.popTurn with rxQ := q })
  | timeout turn wait hq => exact .inl (keeps_timeoutStep s.popTurn)
  | internal turn wait => exact .inl (keeps_internalStep s.popTurn)
  | command i u t hi hf hu turn h =>
    by_cases hl : i = .lrc
    · subst hl
      exact .inr (.inl ⟨u, hu, hf, h⟩)
    · exact .inl (hu.keepsState.2.trans (keeps_exec hi hl h))
  | illegal c u hu turn => exact .inl (hu.keepsState.2.trans (u.keeps_illegalCommand c))
  | write n v u hu turn => exact .inl (hu.keepsState.2.trans (u.keepsState_callerWrite n v).2)
  | writeElem n i v u hu turn =>
    exact .inl (hu.keepsState.2.trans (u.keepsState_callerWriteElem n i v).2)
  | read n u hu turn => exact .inl (hu.keepsState.2.trans (u.callerRead_leaves n).keepsState.2)
  | readElem n i u hu turn =>
    exact .inl (hu.keepsState.2.trans (u.callerReadElem_leaves n i).keepsState.2)
  | branch n f v l onEqual turn => exact .inl (s.popTurn.keepsState_branch n f v l onEqual).2
  | moved pc turn => exact .inl (.refl s)
  | terminal b turn => exact .inl (.refl s)
  | reset turn => exact .inr (.inr ⟨turn, rfl⟩)

/-- Settles O56: only reset clears OVERRUN, and reset too restores the timeout without losing a fault. -/
theorem overrunAndFaultsAreSticky : Obligations.OverrunAndFaultsAreSticky := by
  intro s t h
  rcases (step_did h).keeps with hk | ⟨u, hu, -, hx⟩ | ⟨turn, rfl⟩
  · obtain ⟨ho, hf⟩ := hk.2
    exact ⟨fun h _ => ho h, hf⟩
  · obtain ⟨ho, hf⟩ := hu.keepsState.2.2.trans (sticky_execLrc hx)
    exact ⟨fun h _ => ho h, hf⟩
  · obtain ⟨-, -, hf⟩ := s.popTurn.keeps_restoreTimeout
    exact ⟨fun _ hn => absurd turn hn, hf⟩

/-- Settles O57: an LRC written with BUSY = 1 is refused like any write, so what is left is LRC with BUSY = 0, and reset. -/
theorem onlyLrcWritesLrcValue : Obligations.OnlyLrcWritesLrcValue := by
  intro s t h
  rcases (step_did h).keeps with hk | ⟨u, hu, hf, hx⟩ | ⟨turn, -⟩
  · exact .inl hk.1
  · cases hb : s.status.busy with
    | true =>
      have hx' := (exec_busy (i := .lrc) rfl (by rw [hu.status_eq, hb])).symm.trans hx
      cases hx'
      exact .inl hu.keepsState.2.1
    | false => exact .inr (.inr ⟨rfl, u, hf⟩)
  · exact .inr (.inl turn)

/-! ### Where STATE moves -/

/-- The states the tables of R159 and R185 lead to in one transition; from IDLE, the first states of SEND and RECEIVE. -/
def EngineState.successors : EngineState → List EngineState
  | .idle => [.sAwaitAck, .rAwaitEnq]
  | .sAwaitAck => [.sSending, .idle]
  | .sSending => [.sAwaitPostAck]
  | .sAwaitPostAck => [.sCloseSent, .sCloseRejected]
  | .sCloseSent => [.idle]
  | .sCloseRejected => [.idle]
  | .rAwaitEnq => [.rAccepting, .idle]
  | .rAccepting => [.rReading, .idle]
  | .rReading => [.rVerifying, .idle]
  | .rVerifying => [.rAwaitEot]
  | .rAwaitEot => [.rDecoding]
  | .rDecoding => [.idle]

/-- STATE stays or takes one transition of the tables. -/
def EngineState.Moves (e e' : EngineState) : Prop := e' = e ∨ e' ∈ e.successors

theorem awaitAckDeliver_engine (b : Byte) (s : State) :
    (awaitAckDeliver b s).engine ∈ EngineState.sAwaitAck.successors := by
  unfold awaitAckDeliver
  split <;> simp [EngineState.successors]

theorem awaitPostAckDeliver_engine (b : Byte) (s : State) :
    (awaitPostAckDeliver b s).engine ∈ EngineState.sAwaitPostAck.successors := by
  unfold awaitPostAckDeliver
  split <;> simp [EngineState.successors]

theorem awaitEnqDeliver_engine (b : Byte) (s : State) :
    (awaitEnqDeliver b s).engine ∈ EngineState.rAwaitEnq.successors := by
  unfold awaitEnqDeliver
  split <;> simp [EngineState.successors]

theorem framingCheck_engine (s : State) :
    (framingCheck s).engine ∈ EngineState.rReading.successors := by
  unfold framingCheck
  dsimp only
  split <;> simp [EngineState.successors]

theorem readingDeliver_moves (b : Byte) {s : State} (h : s.engine = .rReading) :
    EngineState.rReading.Moves (readingDeliver b s).engine := by
  unfold readingDeliver
  dsimp only
  split
  · exact .inr (framingCheck_engine _)
  · exact .inl h

theorem acceptingStep_engine (s : State) :
    (acceptingStep s).engine ∈ EngineState.rAccepting.successors := by
  unfold acceptingStep
  dsimp only
  split <;> simp [EngineState.successors]

/-- R_DECODING ends the command on each row of R182's table. -/
theorem decodingStep_engine (s : State) : (decodingStep s).engine = .idle := by
  unfold decodingStep
  dsimp only
  split <;> split <;> simp

theorem deliver_moves (b : Byte) (s : State) : s.engine.Moves (deliver b s).engine := by
  cases h : s.engine with
  | sAwaitAck =>
    rw [deliver_of_sAwaitAck b h]
    exact .inr (awaitAckDeliver_engine b s)
  | sAwaitPostAck =>
    rw [deliver_of_sAwaitPostAck b h]
    exact .inr (awaitPostAckDeliver_engine b s)
  | rAwaitEnq =>
    rw [deliver_of_rAwaitEnq b h]
    exact .inr (awaitEnqDeliver_engine b s)
  | rReading =>
    rw [deliver_of_rReading b h]
    exact readingDeliver_moves b h
  | rAwaitEot =>
    rw [deliver_of_rAwaitEot b h]
    exact .inr (by simp [awaitEotDeliver, EngineState.successors])
  | _ => exact .inl (by simp [deliver, h])

theorem timeoutStep_moves (s : State) : s.engine.Moves (timeoutStep s).engine := by
  cases h : s.engine <;>
    simp [timeoutStep, h, EngineState.Moves, EngineState.successors, awaitAckTimeout,
      awaitPostAckTimeout, awaitEnqTimeout, readingTimeout, awaitEotTimeout]

theorem internalStep_moves (s : State) : s.engine.Moves (internalStep s).engine := by
  unfold internalStep
  cases h : s.engine with
  | rAccepting => exact .inr (acceptingStep_engine s)
  | rDecoding => exact .inr (by simp [decodingStep_engine, EngineState.successors])
  | sSending => exact .inr (by simp [sendingStep, EngineState.successors])
  | sCloseSent => exact .inr (by simp [closeSentStep, EngineState.successors])
  | sCloseRejected => exact .inr (by simp [closeRejectedStep, EngineState.successors])
  | rVerifying => exact .inr (by simp [verifyingStep, EngineState.successors])
  | _ => exact .inl h

/-! The accept steps end at once or open a conversation. -/

theorem lrcStep_engine (s : State) : (lrcStep s).engine = .idle := by
  unfold lrcStep
  split <;> simp

theorem lrcCheckStep_engine (s : State) : (lrcCheckStep s).engine = .idle := by
  unfold lrcCheckStep
  dsimp only
  split
  · simp
  · split <;> simp

theorem encodeAskStep_engine (s : State) : (encodeAskStep s).engine = .idle := by
  unfold encodeAskStep
  split <;> simp

theorem decodeAskStep_engine (s : State) : (decodeAskStep s).engine = .idle := by
  unfold decodeAskStep
  split <;> simp

theorem decodeResponseStep_engine (s : State) : (decodeResponseStep s).engine = .idle := by
  unfold decodeResponseStep
  split <;> simp

theorem encodeResponseStep_engine (s : State) : (encodeResponseStep s).engine = .idle := by
  unfold encodeResponseStep
  split <;> simp

theorem sendStep_moves (s : State) : EngineState.idle.Moves (sendStep s).engine := by
  unfold sendStep
  split
  · exact .inl (by simp)
  · exact .inr (by simp [EngineState.successors])

theorem receiveStep_moves (s : State) : EngineState.idle.Moves (receiveStep s).engine :=
  .inr (by simp [receiveStep, EngineState.successors])

/-- A command is accepted in IDLE or refused: where BUSY = 0 says IDLE, it moves STATE as its accept step does from there. -/
theorem State.command_moves {f : State → State} (hf : ∀ u, EngineState.idle.Moves (f u).engine)
    {s : State} (hs : s.status.busy = false → s.engine = .idle) :
    s.engine.Moves (s.command f).engine := by
  cases hb : s.status.busy with
  | true => exact .inl (by simp [State.command_busy hb])
  | false =>
    rw [hs hb, State.command_idle hb]
    exact hf _

theorem acceptStep_moves {i : Instr} (hi : i.isCommand = true) (s : State) :
    EngineState.idle.Moves (acceptStep i s).engine := by
  cases i with
  | lrc => exact .inl (lrcStep_engine s)
  | lrcCheck => exact .inl (lrcCheckStep_engine s)
  | encodeAsk => exact .inl (encodeAskStep_engine s)
  | decodeAsk => exact .inl (decodeAskStep_engine s)
  | decodeResponse => exact .inl (decodeResponseStep_engine s)
  | encodeResponse => exact .inl (encodeResponseStep_engine s)
  | send => exact sendStep_moves s
  | receive => exact receiveStep_moves s
  | enq | ack | nak | eot | stx | etx => nomatch hi

theorem exec_moves {i : Instr} {s t : State} (hi : i.isCommand = true)
    (hs : s.status.busy = false → s.engine = .idle) (h : exec i s = .next t) :
    s.engine.Moves t.engine := by
  rw [exec_command hi] at h
  cases h
  exact State.command_moves (acceptStep_moves hi) hs

theorem State.illegalCommand_moves {s : State} (c : Byte)
    (hs : s.status.busy = false → s.engine = .idle) :
    s.engine.Moves (s.illegalCommand c).engine :=
  State.command_moves (fun _ => .inl (by simp)) hs

/-- Every step but reset keeps STATE or takes one transition of the tables, BUSY = 0 saying IDLE. -/
theorem StepDid.moves {s t : State} (h : StepDid s t)
    (hs : s.status.busy = false → s.engine = .idle) :
    s.engine.Moves t.engine ∨ s.nextTurn = .reset ∧ t.engine = .idle := by
  have access {u v : State} (hu : s.accessState u) (hv : u.KeepsState v) :
      s.engine.Moves v.engine := .inl (hu.keepsState.trans hv).1
  have hidle {u : State} (hu : s.accessState u) : u.status.busy = false → u.engine = .idle := by
    rw [hu.status_eq, hu.keepsState.1]
    exact hs
  cases h with
  | deliver b q turn wait hq => exact .inl (deliver_moves b { s.popTurn with rxQ := q })
  | timeout turn wait hq => exact .inl (timeoutStep_moves s.popTurn)
  | internal turn wait => exact .inl (internalStep_moves s.popTurn)
  | command i u t hi hf hu turn h => exact .inl (hu.keepsState.1 ▸ exec_moves hi (hidle hu) h)
  | illegal c u hu turn =>
    exact .inl (hu.keepsState.1 ▸ State.illegalCommand_moves c (hidle hu))
  | write n v u hu turn => exact .inl (access hu (u.keepsState_callerWrite n v))
  | writeElem n i v u hu turn => exact .inl (access hu (u.keepsState_callerWriteElem n i v))
  | read n u hu turn => exact .inl (access hu (u.callerRead_leaves n).keepsState)
  | readElem n i u hu turn => exact .inl (access hu (u.callerReadElem_leaves n i).keepsState)
  | branch n f v l onEqual turn =>
    exact .inl (.inl (s.popTurn.keepsState_branch n f v l onEqual).1)
  | moved pc turn => exact .inl (.inl rfl)
  | terminal b turn => exact .inl (.inl rfl)
  | reset turn => exact .inr ⟨turn, rfl⟩

/-- Settles O58: under the invariant BUSY = 0 says IDLE, so acceptance leaves IDLE; the pairs are `successors`, state by state. -/
theorem engineStateFollowsTheTables : Obligations.EngineStateFollowsTheTables := by
  intro s t hinv h
  have hs : s.status.busy = false → s.engine = .idle := fun hb => by
    by_contra hi
    simp [hinv.busy.mpr hi] at hb
  rcases (step_did h).moves hs with (hsame | hmove) | hreset
  · exact .inl hsame
  · refine .inr (.inr ?_)
    cases he : s.engine <;> rw [he] at hmove <;> simpa [EngineState.successors] using hmove
  · exact .inr (.inl hreset)

end Sys2Proof.Machine

/-! PROOFS. The statements about the state as a whole: the invariant, what a delivered byte does, the transport's streams and its timeout. -/

namespace Sys2Proof.Machine

/-! ### The invariant by parts -/

/-- The registers of the RESP block that a Response fills are written (R27). -/
def RespBlock.Held (r : RespBlock) : Prop :=
  r.pos.written = true ∧ r.result.written = true ∧ r.amount.written = true ∧
  r.paymentMode.written = true ∧ r.reportLen.written = true ∧ r.currency.written = true ∧
  r.priv.written = true

/-- The part of the invariant that holds whether or not a command is in progress, of the fields it speaks of: the parameters, BUF, BUF_LEN, RESP_VALID and the RESP block. -/
structure BaseInv (p : Params) (m : Memory) (len : BitVec 16) (valid : Bool) (r : RespBlock) :
    Prop where
  params : p.wellFormed = true
  wf : m.wf
  within : m.within p.bufCap
  len_le : len.toNat ≤ p.bufCap
  held : valid = true → r.Held

def State.Base (s : State) : Prop :=
  BaseInv s.params s.buf s.bufLen s.status.respValid s.resp

/-- No command is in progress, and OUTCOME and ERR are in step (R183, R200, R203). -/
def State.Rest (s : State) : Prop :=
  s.engine = .idle ∧ s.status.busy = false ∧ s.toSaved = false ∧
  (s.status.outcome = .error ↔ s.err.code ≠ .none) ∧
  (s.err.eotMissing = true → s.status.outcome = .error) ∧ s.err.code ≠ .unknownCurrency

/-- The flags of a SEND or RECEIVE in progress (R206): the timeout saved, no outcome and no error yet. -/
def State.Running (s : State) : Prop :=
  s.status.busy = true ∧ s.toSaved = true ∧ s.savedTimeout.written = true ∧
  s.status.outcome = .none ∧ s.err.code = .none ∧ s.err.eotMissing = false

/-- The Ask frame is in BUF (R151, R154). -/
def State.AskFrame (s : State) : Prop :=
  s.bufLen = 37 ∧ s.bufWritten Config.askFrameLen = true

/-- No frame has been given to the CALLER (R184). -/
def State.NoFrameYet (s : State) : Prop := s.bufLen = 0 ∧ s.status.frameAvail = false

/-- The byte count is one of a Response frame (R173). -/
def State.SizeKnown (s : State) : Prop :=
  s.expN.toNat = Config.respFullFrameLen ∨ s.expN.toNat = Config.respLimitedFrameLen

/-- Part of the frame has been read (R174). -/
def State.ReadSoFar (s : State) : Prop :=
  s.rxCount.toNat < s.expN.toNat ∧ s.bufWritten s.rxCount.toNat = true

/-- The whole frame has been read, with STX and ETX in place (R174, R175). -/
def State.FrameRead (s : State) : Prop :=
  s.rxCount = s.expN ∧ s.bufWritten s.expN.toNat = true ∧
  s.buf.read 0 = some Config.stx ∧ s.buf.read (s.expN.toNat - 2) = some Config.etx

/-- What BUF and the read counters hold in each state of a conversation; IDLE is none. -/
def State.Phase (s : State) : Prop :=
  match s.engine with
  | .idle => False
  | .sAwaitAck | .sSending | .sAwaitPostAck | .sCloseSent | .sCloseRejected => s.AskFrame
  | .rAwaitEnq | .rAccepting => s.NoFrameYet
  | .rReading => s.NoFrameYet ∧ s.SizeKnown ∧ s.ReadSoFar
  | .rVerifying | .rAwaitEot | .rDecoding => s.NoFrameYet ∧ s.SizeKnown ∧ s.FrameRead

section Parts

variable {s : State}

theorem State.Phase.engine_ne_idle (h : s.Phase) : s.engine ≠ .idle := by
  intro he
  simp [State.Phase, he] at h

theorem State.Phase.askFrame (h : s.Phase) (he : s.engine.sending = true) : s.AskFrame := by
  unfold State.Phase at h
  split at h <;> simp_all [EngineState.sending]

theorem State.Phase.noFrameYet (h : s.Phase) (he : s.engine.receiving = true) :
    s.NoFrameYet := by
  unfold State.Phase at h
  split at h <;> simp_all [EngineState.receiving]

theorem State.Phase.sizeKnown (h : s.Phase) (he : s.engine.sizeKnown = true) : s.SizeKnown := by
  unfold State.Phase at h
  split at h <;> simp_all [EngineState.sizeKnown]

theorem State.Phase.readSoFar (h : s.Phase) (he : s.engine = .rReading) : s.ReadSoFar := by
  simp only [State.Phase, he] at h
  exact h.2.2

theorem State.Phase.frameRead (h : s.Phase) (he : s.engine.frameRead = true) : s.FrameRead := by
  unfold State.Phase at h
  split at h <;> simp_all [EngineState.frameRead]

theorem State.Inv.base (h : s.Inv) : s.Base :=
  ⟨h.params, h.bufWf, h.bufWithin, h.bufLen, h.respValid⟩

theorem State.Inv.rest (h : s.Inv) (he : s.engine = .idle) : s.Rest :=
  ⟨he, by simpa [he] using h.busy, by simpa [he] using h.saved, h.codes, h.eotMissing,
    h.noCurrency⟩

theorem State.Inv.running (h : s.Inv) (he : s.engine ≠ .idle) : s.Running := by
  have hsaved := h.saved.mpr he
  have hout := h.noOutcome he
  refine ⟨h.busy.mpr he, hsaved, h.savedWritten hsaved, hout, ?_, ?_⟩
  · simpa [hout] using h.codes
  · simpa [hout] using h.eotMissing

theorem State.Inv.phase (h : s.Inv) (he : s.engine ≠ .idle) : s.Phase := by
  have hask := h.askFrame
  have hno := h.noFrameYet
  have hsize := h.expN
  have hread := h.frameRead
  unfold State.Phase
  split <;> rename_i e <;> rw [e] at hask hno hsize hread
  · exact absurd e he
  any_goals exact hask rfl
  any_goals exact hno rfl
  · exact ⟨hno rfl, hsize rfl, h.reading e⟩
  all_goals exact ⟨hno rfl, hsize rfl, hread rfl⟩

theorem State.inv_of_rest (hb : s.Base) (hr : s.Rest) : s.Inv := by
  obtain ⟨he, hbusy, hsaved, hcodes, heot, hcur⟩ := hr
  exact {
    params := hb.params, bufWf := hb.wf, bufWithin := hb.within, bufLen := hb.len_le
    respValid := hb.held, codes := hcodes, eotMissing := heot, noCurrency := hcur
    busy := by simp [hbusy, he]
    saved := by simp [hsaved, he]
    savedWritten := by simp [hsaved]
    noOutcome := fun hne => absurd he hne
    askFrame := by simp [he, EngineState.sending]
    noFrameYet := by simp [he, EngineState.receiving]
    expN := by simp [he, EngineState.sizeKnown]
    reading := by simp [he]
    frameRead := by simp [he, EngineState.frameRead] }

theorem State.inv_of_phase (hb : s.Base) (hr : s.Running) (hp : s.Phase) : s.Inv := by
  obtain ⟨hbusy, hsaved, hwritten, hout, hcode, heot⟩ := hr
  have he := hp.engine_ne_idle
  exact {
    params := hb.params, bufWf := hb.wf, bufWithin := hb.within, bufLen := hb.len_le
    respValid := hb.held
    busy := by simp [hbusy, he]
    saved := by simp [hsaved, he]
    savedWritten := fun _ => hwritten
    codes := by simp [hout, hcode]
    noOutcome := fun _ => hout
    eotMissing := by simp [heot]
    noCurrency := by simp [hcode]
    askFrame := hp.askFrame
    noFrameYet := hp.noFrameYet
    expN := hp.sizeKnown
    reading := hp.readSoFar
    frameRead := hp.frameRead }

end Parts

/-- The invariant: its base, and either nothing in progress or a conversation in its phase. -/
def State.InvParts (s : State) : Prop := s.Base ∧ (s.Rest ∨ s.Running ∧ s.Phase)

theorem State.inv_iff (s : State) : s.Inv ↔ s.InvParts := by
  constructor
  · intro h
    by_cases he : s.engine = .idle
    · exact ⟨h.base, .inl (h.rest he)⟩
    · exact ⟨h.base, .inr ⟨h.running he, h.phase he⟩⟩
  · rintro ⟨hb, hr | ⟨hr, hp⟩⟩
    · exact State.inv_of_rest hb hr
    · exact State.inv_of_phase hb hr hp

/-- The parts speak of fields alone, so where only other fields differ they are the same by definition. -/
theorem State.Inv.of_parts_eq {s t : State} (h : s.Inv) (e : t.InvParts = s.InvParts) : t.Inv :=
  t.inv_iff.mpr (e ▸ s.inv_iff.mp h)

/-! ### What the shared operations keep of the invariant -/

theorem State.inv_busyWrite {s : State} (h : s.Inv) : s.busyWrite.Inv :=
  h.of_parts_eq rfl

/-- `noteRead` changes FAULTS and the draw counter alone. -/
theorem State.noteRead_eq (s : State) (w : Bool) :
    ∃ f d, s.noteRead w = { s with faults := f, draws := d } := by
  cases w <;> exact ⟨_, _, rfl⟩

/-- Besides T_TIMEOUT, restoring it changes FAULTS and the draw counter alone. -/
theorem State.restoreTimeout_eq (s : State) :
    ∃ f d v, s.restoreTimeout = { s with faults := f, draws := d, tTimeout := v } := by
  unfold State.restoreTimeout
  split
  · obtain ⟨f, d, e⟩ := s.noteRead_eq s.savedTimeout.written
    exact ⟨f, d, _, by rw [e]⟩
  · exact ⟨_, _, _, rfl⟩

/-- A code `raise` may give: not NONE (R200), and not UNKNOWN_CURRENCY (R203). -/
def ErrCode.Raised (c : ErrCode) : Prop := c ≠ .none ∧ c ≠ .unknownCurrency

section Operations

variable {s : State}

/-- `finish` ends whatever was in progress: what is left to show is that OUTCOME and ERR agree. -/
theorem State.inv_finish (hb : s.Base) {o : CmdOutcome} {c : ErrCode} (i0 i1 : Byte)
    (hc : o = .error ↔ c ≠ .none) (he : s.err.eotMissing = true → o = .error)
    (hn : c ≠ .unknownCurrency) : (s.finish o c i0 i1).Inv := by
  obtain ⟨f, d, v, e⟩ := s.restoreTimeout_eq
  rw [State.finish, e]
  exact State.inv_of_rest hb ⟨rfl, rfl, rfl, hc, he, hn⟩

theorem State.inv_raise (hb : s.Base) {f : Failure} (hf : f.code.Raised) : (s.raise f).Inv := by
  obtain ⟨hnone, hcur⟩ := hf
  exact State.inv_finish hb _ _ (by simp [hnone]) (fun _ => rfl) hcur

/-- A command that completes without error: no EOT was missing. -/
theorem State.inv_finish_none (hb : s.Base) {o : CmdOutcome} (i0 i1 : Byte) (ho : o ≠ .error)
    (he : s.err.eotMissing = false) : (s.finish o .none i0 i1).Inv :=
  State.inv_finish hb i0 i1 (by simp [ho]) (by simp [he]) (by decide)

theorem State.base_noteRead (hb : s.Base) (w : Bool) : (s.noteRead w).Base := by
  obtain ⟨f, d, e⟩ := s.noteRead_eq w
  rw [e]
  exact hb

/-- BUF holds the longest frame (R8). -/
theorem State.Base.bufCap_ge (hb : s.Base) : Config.respFullFrameLen ≤ s.params.bufCap := by
  have hp := hb.params
  simp only [Params.wellFormed, Bool.and_eq_true, decide_eq_true_eq] at hp
  exact hp.2

theorem State.base_putFrame (hb : s.Base) {f : List Byte}
    (hf : f.length ≤ Config.respFullFrameLen) : (s.putFrame f).Base := by
  have hcap := hf.trans hb.bufCap_ge
  exact {
    params := hb.params
    wf := Memory.wf_writeAll hb.wf 0 f
    within := Memory.within_writeAll hb.within f (by simpa using hcap)
    len_le := (Nat.mod_le _ _).trans hcap
    held := hb.held }

/-- A Response stored fills its registers. -/
theorem RespBlock.held_store (r : RespBlock) (v : RespVal) : (r.store v).Held := by
  simp [RespBlock.Held, RespBlock.store, Slot.of]

theorem State.base_writeResp (hb : s.Base) (v : RespVal) : (s.writeResp v).Base :=
  { hb with held := fun _ => s.resp.held_store v }

end Operations

/-! ### The commands keep the invariant -/

/-- A command has been accepted (R206). -/
def State.Accepted (s : State) : Prop :=
  s.Base ∧ s.status.busy = true ∧ s.status.outcome = .none ∧ s.status.frameAvail = false ∧
  s.err = { code := .none, eotMissing := false }

theorem State.inv_command {s : State} {f : State → State} (h : s.Inv)
    (hf : ∀ u : State, u.Accepted → (f u).Inv) : (s.command f).Inv := by
  cases hbusy : s.status.busy with
  | true =>
    rw [State.command_busy hbusy]
    exact State.inv_busyWrite h
  | false =>
    rw [State.command_idle hbusy]
    exact hf _ ⟨{ h.base with held := nofun }, rfl, rfl, rfl, rfl⟩

theorem encAsk_error_raised {s : State} {e : Failure} (h : encAsk s.askVal = .error e) :
    e.code.Raised := by
  rw [encAsk_error_amount h]
  exact ⟨nofun, nofun⟩

theorem decAsk_error_raised {f : List Byte} {e : Failure} (h : decAsk f = .error e) :
    e.code.Raised := by
  rcases decAsk_error h with hc | hc | hc <;> simp [ErrCode.Raised, hc]

theorem decResp_error_raised {f : List Byte} {e : Failure} (h : decResp f = .error e) :
    e.code.Raised := by
  rcases decResp_error h with hc | hc | hc <;> simp [ErrCode.Raised, hc]

theorem encResp_error_raised {l : Nat} {v : RespVal} {e : Failure} (h : encResp l v = .error e) :
    e.code.Raised := by
  rcases encResp_error h with hc | hc | hc <;> simp [ErrCode.Raised, hc]

/-- A Response of the RESP block has no more bytes than a full one (R134). -/
theorem respPayload_length_le (s : State) : (respPayload s.respVal).length ≤ 80 := by
  have hpos : s.respVal.pos.length = 2 := State.bytesAt_length ..
  have hcur : s.respVal.currency.length = 3 := State.bytesAt_length ..
  have hpriv : s.respVal.priv.length = 10 := State.bytesAt_length ..
  have hrep : s.respVal.report.length ≤ 55 := by
    simp only [State.respVal]
    split <;> simp
  simp only [respPayload, List.length_append, List.length_singleton, decDigits_length,
    Config.amountDigits, hpos, hcur, hpriv]
  omega

theorem encResp_length_le {s : State} {l : Nat} {f : List Byte}
    (h : encResp l s.respVal = .ok f) : f.length ≤ Config.respFullFrameLen := by
  have hp := respPayload_length_le s
  unfold encResp at h
  split at h
  · cases h
  · split at h
    · cases h
    · split at h
      · cases h
      · cases h
        rw [frame_length]
        exact Nat.add_le_add_right hp 3

section AcceptSteps

variable {s : State}

theorem inv_lrcStep (h : s.Accepted) : (lrcStep s).Inv := by
  obtain ⟨hb, -, -, -, herr⟩ := h
  unfold lrcStep
  split
  · exact State.inv_raise (s := { s with lrcValue := 0x00 }) hb ⟨nofun, nofun⟩
  · next v _ =>
    exact State.inv_finish_none (s := { s.noteInput with lrcValue := v })
      (State.base_noteRead hb _) _ _ nofun (by simp [State.noteInput, herr])

theorem inv_lrcCheckStep (h : s.Accepted) : (lrcCheckStep s).Inv := by
  obtain ⟨hb, -, -, -, herr⟩ := h
  have hfin (v : Bool) (i0 i1 : Byte) :
      ({ s.noteInput with status := { s.noteInput.status with check := v } }.finish
        .ok .none i0 i1).Inv :=
    State.inv_finish_none
      (s := { s.noteInput with status := { s.noteInput.status with check := v } })
      (State.base_noteRead hb _) _ _ nofun (by simp [State.noteInput, herr])
  unfold lrcCheckStep
  dsimp only
  split
  · exact hfin ..
  · split <;> exact hfin ..

theorem inv_encodeAskStep (h : s.Accepted) : (encodeAskStep s).Inv := by
  obtain ⟨hb, -, -, -, herr⟩ := h
  unfold encodeAskStep
  split
  · next f hf =>
    have hlen : f.length ≤ Config.respFullFrameLen := (encAsk_length hf).trans_le (by decide)
    exact State.inv_finish_none (State.base_putFrame (State.base_noteRead hb _) hlen) _ _ nofun
      (by simp [herr])
  · next hf => exact State.inv_raise (State.base_noteRead hb _) (encAsk_error_raised hf)

theorem inv_decodeAskStep (h : s.Accepted) : (decodeAskStep s).Inv := by
  obtain ⟨hb, -, -, -, herr⟩ := h
  unfold decodeAskStep
  split
  · next a _ =>
    exact State.inv_finish_none (s := { s.noteInput with ask := AskBlock.ofVal a })
      (State.base_noteRead hb _) _ _ nofun (by simp [State.noteInput, herr])
  · next hf => exact State.inv_raise (State.base_noteRead hb _) (decAsk_error_raised hf)

theorem inv_decodeResponseStep (h : s.Accepted) : (decodeResponseStep s).Inv := by
  obtain ⟨hb, -, -, -, herr⟩ := h
  unfold decodeResponseStep
  split
  · exact State.inv_finish_none (State.base_writeResp (State.base_noteRead hb _) _) _ _ nofun
      (by simp [herr])
  · next hf => exact State.inv_raise (State.base_noteRead hb _) (decResp_error_raised hf)

theorem inv_encodeResponseStep (h : s.Accepted) : (encodeResponseStep s).Inv := by
  obtain ⟨hb, -, -, -, herr⟩ := h
  unfold encodeResponseStep
  split
  · next f hf =>
    exact State.inv_finish_none
      (State.base_putFrame (State.base_noteRead hb _) (encResp_length_le hf)) _ _ nofun
      (by simp [herr])
  · next hf => exact State.inv_raise (State.base_noteRead hb _) (encResp_error_raised hf)

/-- Saving the timeout makes the accepted command one in progress. -/
theorem State.Accepted.running_setTimeout (h : s.Accepted) : s.setTimeout.Running := by
  obtain ⟨-, hbusy, hout, -, herr⟩ := h
  exact ⟨hbusy, rfl, rfl, hout, by simp [herr], by simp [herr]⟩

theorem State.askFrame_putFrame {f : List Byte} (hf : f.length = Config.askFrameLen) :
    (s.putFrame f).AskFrame :=
  ⟨by simp [hf], hf ▸ State.bufWritten_of_holds (s.putFrame_holds f)⟩

theorem inv_sendStep (h : s.Accepted) : (sendStep s).Inv := by
  have hb := h.1
  unfold sendStep
  split
  · next hf => exact State.inv_raise (State.base_noteRead hb _) (encAsk_error_raised hf)
  · next f hf =>
    have hlen : f.length = Config.askFrameLen := encAsk_length hf
    have hbase := State.base_putFrame (State.base_noteRead (s := s.setTimeout) hb
      s.sendReadsWritten) (hlen.trans_le (by decide))
    obtain ⟨v, d, e⟩ := s.setTimeout.noteRead_eq s.sendReadsWritten
    rw [e] at hbase ⊢
    exact State.inv_of_phase hbase h.running_setTimeout (State.askFrame_putFrame (s := s) hlen)

theorem inv_receiveStep (h : s.Accepted) : (receiveStep s).Inv := by
  obtain ⟨hb, -, -, havail, -⟩ := id h
  obtain ⟨v, d, e⟩ := s.setTimeout.noteRead_eq s.timeoutArg.written
  rw [receiveStep, e]
  exact State.inv_of_phase { hb with len_le := Nat.zero_le _ } h.running_setTimeout ⟨rfl, havail⟩

theorem inv_acceptStep {i : Instr} (hi : i.isCommand = true) (h : s.Accepted) :
    (acceptStep i s).Inv := by
  cases i with
  | lrc => exact inv_lrcStep h
  | lrcCheck => exact inv_lrcCheckStep h
  | encodeAsk => exact inv_encodeAskStep h
  | decodeAsk => exact inv_decodeAskStep h
  | decodeResponse => exact inv_decodeResponseStep h
  | encodeResponse => exact inv_encodeResponseStep h
  | send => exact inv_sendStep h
  | receive => exact inv_receiveStep h
  | enq | ack | nak | eot | stx | etx => nomatch hi

end AcceptSteps

theorem inv_exec {i : Instr} {s t : State} (hi : i.isCommand = true) (h : s.Inv)
    (hx : exec i s = .next t) : t.Inv := by
  rw [exec_command hi] at hx
  cases hx
  exact State.inv_command h fun u hu => inv_acceptStep hi hu

theorem State.inv_illegalCommand {s : State} (c : Byte) (h : s.Inv) : (s.illegalCommand c).Inv :=
  State.inv_command h fun _ hu => State.inv_raise hu.1 ⟨nofun, nofun⟩

/-! ### The ENGINE's transitions keep the invariant -/

/-- The bytes written so far and one more. -/
theorem State.bufWritten_succ {s : State} {k : Nat} {b : Byte} (h : s.bufWritten k = true) :
    { s with buf := s.buf.write k b }.bufWritten (k + 1) = true := by
  simp only [State.bufWritten, List.all_eq_true, List.mem_range, Memory.read_write] at h ⊢
  intro j hj
  split
  · rfl
  · exact h j (by omega)

/-- A Response frame has 28 to 83 bytes. -/
theorem State.SizeKnown.bounds {s : State} (h : s.SizeKnown) :
    28 ≤ s.expN.toNat ∧ s.expN.toNat ≤ 83 := by
  rcases h with h | h <;> rw [h] <;> decide

theorem expectedCount_eq_some {p : Params} {flag : Byte} {n : Nat}
    (h : expectedCount p flag = some n) :
    n = Config.respFullFrameLen ∨ n = Config.respLimitedFrameLen := by
  unfold expectedCount at h
  split at h
  · exact .inl (Option.some.inj h).symm
  · split at h
    · exact .inr (Option.some.inj h).symm
    · cases h

section Transitions

variable {s : State} (hb : s.Base)

include hb

theorem inv_awaitAckDeliver (b : Byte) (hr : s.Running) (hf : s.AskFrame) :
    (awaitAckDeliver b s).Inv := by
  unfold awaitAckDeliver
  split
  · exact State.inv_of_phase hb hr hf
  · exact State.inv_raise (s := s.readGot b) hb ⟨nofun, nofun⟩

theorem inv_awaitPostAckDeliver (b : Byte) (hr : s.Running) (hf : s.AskFrame) :
    (awaitPostAckDeliver b s).Inv := by
  unfold awaitPostAckDeliver
  split <;> exact State.inv_of_phase hb hr hf

theorem inv_awaitEnqDeliver (b : Byte) (hr : s.Running) (hn : s.NoFrameYet) :
    (awaitEnqDeliver b s).Inv := by
  obtain ⟨-, -, -, -, -, heot⟩ := id hr
  unfold awaitEnqDeliver
  split
  · exact State.inv_of_phase hb hr hn
  · exact State.inv_finish_none (s := s.readGot b) hb _ _ nofun heot

/-- R175: with all EXP_N bytes in BUF, the framing check finds STX and ETX or raises. -/
theorem inv_framingCheck (hr : s.Running) (hn : s.NoFrameYet) (hs : s.SizeKnown)
    (hc : s.rxCount = s.expN) (hw : s.bufWritten s.expN.toNat = true) : (framingCheck s).Inv := by
  have held {k : Nat} (hk : k < s.expN.toNat) : s.buf.read k = some (s.bufByte k) := by
    simp only [State.bufWritten, List.all_eq_true, List.mem_range] at hw
    obtain ⟨b, hb⟩ := Option.isSome_iff_exists.mp (hw k hk)
    simp [State.bufByte, hb]
  have hsize := hs.bounds
  have hstx := held (k := 0) (by omega)
  have hetx := held (k := s.expN.toNat - 2) (by omega)
  unfold framingCheck
  dsimp only
  split
  · exact State.inv_raise (State.base_noteRead hb _) ⟨nofun, nofun⟩
  · next hok =>
    obtain ⟨h0, h1⟩ : s.bufByte 0 = Config.stx ∧ s.bufByte (s.expN.toNat - 2) = Config.etx := by
      simpa using hok
    rw [h0] at hstx
    rw [h1] at hetx
    obtain ⟨f, d, e⟩ :=
      s.noteRead_eq ((s.buf.read 0).isSome && (s.buf.read (s.expN.toNat - 2)).isSome)
    rw [e]
    exact State.inv_of_phase hb hr ⟨hn, hs, hc, hw, hstx, hetx⟩

/-- R174: the byte goes to BUF[RX_COUNT], which lies in BUF since RX_COUNT < EXP_N. -/
theorem inv_readingDeliver (b : Byte) (hr : s.Running) (he : s.engine = .rReading)
    (hn : s.NoFrameYet) (hs : s.SizeKnown) (hread : s.ReadSoFar) : (readingDeliver b s).Inv := by
  obtain ⟨hlt, hw⟩ := hread
  have hsize := hs.bounds
  have hcount : (s.rxCount + 1).toNat = s.rxCount.toNat + 1 := by bv_omega
  have hcap : s.rxCount.toNat < s.params.bufCap := by
    have : 83 ≤ s.params.bufCap := hb.bufCap_ge
    omega
  have hbase : { s with buf := s.buf.write s.rxCount.toNat b, rxCount := s.rxCount + 1 }.Base :=
    { hb with wf := Memory.wf_write hb.wf _ b, within := Memory.within_write hb.within hcap b }
  have hwritten := State.bufWritten_succ (b := b) hw
  unfold readingDeliver
  dsimp only
  split
  · next hc =>
    refine inv_framingCheck hbase hr hn hs hc ?_
    have hexp : s.expN.toNat = s.rxCount.toNat + 1 := by rw [← hc, hcount]
    exact hexp ▸ hwritten
  · next hc =>
    have hne : s.rxCount.toNat + 1 ≠ s.expN.toNat := fun h =>
      hc (BitVec.eq_of_toNat_eq (hcount.trans h))
    refine State.inv_of_phase hbase hr ?_
    rw [State.Phase]
    simp only [he]
    refine ⟨hn, hs, ?_, ?_⟩
    · show (s.rxCount + 1).toNat < s.expN.toNat
      omega
    · show State.bufWritten _ (s.rxCount + 1).toNat = true
      rw [hcount]
      exact hwritten

theorem inv_acceptingStep (hr : s.Running) (hn : s.NoFrameYet) : (acceptingStep s).Inv := by
  unfold acceptingStep
  dsimp only
  split
  · next n hcount =>
    obtain ⟨f, d, e⟩ := s.noteRead_eq s.ask.answerFlag.written
    rw [e]
    rcases expectedCount_eq_some hcount with rfl | rfl
    · exact State.inv_of_phase hb hr
        ⟨hn, .inl rfl, (by decide : (0#16).toNat < (83#16).toNat), rfl⟩
    · exact State.inv_of_phase hb hr
        ⟨hn, .inr rfl, (by decide : (0#16).toNat < (28#16).toNat), rfl⟩
  · exact State.inv_raise (State.base_noteRead hb _) ⟨nofun, nofun⟩

theorem State.base_keepFrame (hs : s.SizeKnown) : s.keepFrame.Base :=
  { hb with len_le := hs.bounds.2.trans hb.bufCap_ge }

/-- R182: each row of the completion table ends the command; MISSING_TERMINATOR is an error, so EOT_MISSING may stay. -/
theorem inv_decodingStep (hr : s.Running) (hs : s.SizeKnown) : (decodingStep s).Inv := by
  obtain ⟨-, -, -, -, -, heot⟩ := hr
  obtain ⟨f, d, e⟩ := s.noteRead_eq (s.bufWritten s.expN.toNat)
  have hread : (s.noteRead (s.bufWritten s.expN.toNat)).noteEot.Base := by
    rw [e, State.noteEot]
    split <;> exact hb
  unfold decodingStep
  dsimp only
  split
  · next v _ =>
    have hkept := State.base_keepFrame (State.base_writeResp hread v)
      (by simpa [State.SizeKnown] using hs)
    split
    · next hok => exact State.inv_finish_none hkept _ _ nofun (by simp [hok, heot])
    · exact State.inv_raise hkept ⟨nofun, nofun⟩
  · next hd =>
    split
    · exact State.inv_raise (State.base_keepFrame hread (by simpa [State.SizeKnown] using hs))
        (decResp_error_raised hd)
    · exact State.inv_raise hread (decResp_error_raised hd)

end Transitions

/-- R65: where no read is pending a delivered byte is first in RX_Q, and nothing else changes. -/
theorem deliver_of_not_readWait {s : State} (b : Byte) (h : s.engine.readWait = false) :
    deliver b s = { s with rxQ := b :: s.rxQ } := by
  cases he : s.engine with
  | sAwaitAck | sAwaitPostAck | rAwaitEnq | rReading | rAwaitEot =>
    simp [he, EngineState.readWait] at h
  | idle | sSending | sCloseSent | sCloseRejected | rAccepting | rVerifying | rDecoding =>
    simp only [deliver, he]

section EngineSteps

variable {s : State} (h : s.Inv)

include h

theorem State.Inv.parts_of_sending (he : s.engine.sending = true) : s.Running ∧ s.AskFrame :=
  ⟨h.running (by rintro hi; simp [hi, EngineState.sending] at he), h.askFrame he⟩

theorem State.Inv.parts_of_receiving (he : s.engine.receiving = true) :
    s.Running ∧ s.NoFrameYet :=
  ⟨h.running (by rintro hi; simp [hi, EngineState.receiving] at he), h.noFrameYet he⟩

theorem inv_deliver (b : Byte) : (deliver b s).Inv := by
  cases he : s.engine with
  | sAwaitAck =>
    obtain ⟨hr, hf⟩ := h.parts_of_sending (by rw [he]; rfl)
    rw [deliver_of_sAwaitAck b he]
    exact inv_awaitAckDeliver h.base b hr hf
  | sAwaitPostAck =>
    obtain ⟨hr, hf⟩ := h.parts_of_sending (by rw [he]; rfl)
    rw [deliver_of_sAwaitPostAck b he]
    exact inv_awaitPostAckDeliver h.base b hr hf
  | rAwaitEnq =>
    obtain ⟨hr, hn⟩ := h.parts_of_receiving (by rw [he]; rfl)
    rw [deliver_of_rAwaitEnq b he]
    exact inv_awaitEnqDeliver h.base b hr hn
  | rReading =>
    obtain ⟨hr, hn⟩ := h.parts_of_receiving (by rw [he]; rfl)
    rw [deliver_of_rReading b he]
    exact inv_readingDeliver h.base b hr he hn (h.expN (by rw [he]; rfl)) (h.reading he)
  | rAwaitEot =>
    obtain ⟨hr, hn⟩ := h.parts_of_receiving (by rw [he]; rfl)
    rw [deliver_of_rAwaitEot b he]
    exact State.inv_of_phase h.base hr
      ⟨hn, h.expN (by rw [he]; rfl), h.frameRead (by rw [he]; rfl)⟩
  | _ =>
    rw [deliver_of_not_readWait b (by rw [he]; rfl)]
    exact h.of_parts_eq rfl

theorem inv_timeoutStep : (timeoutStep s).Inv := by
  unfold timeoutStep
  split
  · exact State.inv_raise (s := s.readTimedOut) h.base ⟨nofun, nofun⟩
  · next he =>
    obtain ⟨hr, hf⟩ := h.parts_of_sending (by rw [he]; rfl)
    exact State.inv_of_phase h.base hr hf
  · next he =>
    obtain ⟨⟨-, -, -, -, -, heot⟩, -⟩ := h.parts_of_receiving (by rw [he]; rfl)
    exact State.inv_finish_none (s := s.readTimedOut) h.base _ _ nofun heot
  · exact State.inv_raise h.base ⟨nofun, nofun⟩
  · next he =>
    obtain ⟨hr, hn⟩ := h.parts_of_receiving (by rw [he]; rfl)
    exact State.inv_of_phase h.base hr
      ⟨hn, h.expN (by rw [he]; rfl), h.frameRead (by rw [he]; rfl)⟩
  all_goals exact h

theorem inv_internalStep : (internalStep s).Inv := by
  unfold internalStep
  split
  · next he =>
    obtain ⟨hr, hf⟩ := h.parts_of_sending (by rw [he]; rfl)
    obtain ⟨f, d, e⟩ := s.noteRead_eq (s.bufWritten Config.askFrameLen)
    rw [sendingStep, e]
    exact State.inv_of_phase h.base hr hf
  · next he =>
    obtain ⟨⟨-, -, -, -, -, heot⟩, -⟩ := h.parts_of_sending (by rw [he]; rfl)
    exact State.inv_finish_none (s := s.txWrite [Config.eot]) h.base _ _ nofun heot
  · next he =>
    obtain ⟨⟨-, -, -, -, -, heot⟩, -⟩ := h.parts_of_sending (by rw [he]; rfl)
    exact State.inv_finish_none (s := s.txWrite [Config.eot]) h.base _ _ nofun heot
  · next he =>
    obtain ⟨hr, hn⟩ := h.parts_of_receiving (by rw [he]; rfl)
    exact inv_acceptingStep h.base hr hn
  · next he =>
    obtain ⟨hr, hn⟩ := h.parts_of_receiving (by rw [he]; rfl)
    exact State.inv_of_phase h.base hr
      ⟨hn, h.expN (by rw [he]; rfl), h.frameRead (by rw [he]; rfl)⟩
  · next he =>
    obtain ⟨hr, -⟩ := h.parts_of_receiving (by rw [he]; rfl)
    exact inv_decodingStep h.base hr (h.expN (by rw [he]; rfl))
  all_goals exact h

end EngineSteps

/-! ### The CALLER's accesses and reset keep the invariant -/

/-- An element store unwrites nothing. -/
theorem ByteReg.written_put {n : Nat} {x : ByteReg n} (i : Nat) (b : Byte)
    (h : x.written = true) : (x.put i b).written = true := by
  simp only [ByteReg.written, List.all_eq_true] at h ⊢
  intro y hy
  rw [ByteReg.put, Vector.toList_setIfInBounds] at hy
  rcases List.mem_or_eq_of_mem_set hy with hy | rfl
  · exact h y hy
  · rfl

theorem State.base_storeReg {s : State} (hb : s.Base) (r : Reg) (v : Nat) :
    (s.storeReg r v).Base := by
  cases r with
  | bufLen => exact { hb with len_le := (Nat.mod_le _ _).trans (Nat.min_le_right ..) }
  | respResult =>
    refine { hb with held := fun hv => ?_ }
    obtain ⟨hpos, -, hrest⟩ := hb.held hv
    exact ⟨hpos, rfl, hrest⟩
  | respAmount =>
    refine { hb with held := fun hv => ?_ }
    obtain ⟨hpos, hres, -, hrest⟩ := hb.held hv
    exact ⟨hpos, hres, rfl, hrest⟩
  | respPaymentMode =>
    refine { hb with held := fun hv => ?_ }
    obtain ⟨hpos, hres, hamt, -, hrest⟩ := hb.held hv
    exact ⟨hpos, hres, hamt, rfl, hrest⟩
  | respReportLen =>
    refine { hb with held := fun hv => ?_ }
    obtain ⟨hpos, hres, hamt, hmode, -, hrest⟩ := hb.held hv
    exact ⟨hpos, hres, hamt, hmode, rfl, hrest⟩
  | _ => exact hb

theorem State.base_storeElem {s : State} (hb : s.Base) {r : Reg} {i : Nat} (b : Byte)
    (hi : i < s.arrayLength r) : (s.storeElem r i b).Base := by
  cases r with
  | buf =>
    exact { hb with
      wf := Memory.wf_write hb.wf i b, within := Memory.within_write hb.within hi b }
  | respPos =>
    refine { hb with held := fun hv => ?_ }
    obtain ⟨hpos, hrest⟩ := hb.held hv
    exact ⟨ByteReg.written_put i b hpos, hrest⟩
  | respReport => exact { hb with held := hb.held }
  | respCurrency =>
    refine { hb with held := fun hv => ?_ }
    obtain ⟨hpos, hres, hamt, hmode, hlen, hcur, hpriv⟩ := hb.held hv
    exact ⟨hpos, hres, hamt, hmode, hlen, ByteReg.written_put i b hcur, hpriv⟩
  | respPrivate =>
    refine { hb with held := fun hv => ?_ }
    obtain ⟨hpos, hres, hamt, hmode, hlen, hcur, hpriv⟩ := hb.held hv
    exact ⟨hpos, hres, hamt, hmode, hlen, hcur, ByteReg.written_put i b hpriv⟩
  | _ => exact hb

/-- With BUSY = 0 a CALLER's store touches no field that says what is in progress. -/
theorem State.OnlyChanged.inv {s t : State} {r : Reg} (hc : s.OnlyChanged t r) (h : s.Inv)
    (hbusy : s.status.busy = false) (hb : t.Base) : t.Inv := by
  have he : s.engine = .idle := by
    by_contra hi
    simp [h.busy.mpr hi] at hbusy
  have hengine : t.engine = s.engine := (congrArg State.engine hc.rest :)
  have hsaved : t.toSaved = s.toSaved := (congrArg State.toSaved hc.rest :)
  have herr : t.err = s.err := (congrArg State.err hc.rest :)
  have hrest := h.rest he
  refine State.inv_of_rest hb ?_
  rw [State.Rest] at hrest ⊢
  rwa [hengine, hsaved, herr, hc.status_eq]

theorem State.inv_callerWrite {s : State} (h : s.Inv) (n v : Nat) : (s.callerWrite n v).Inv := by
  unfold State.callerWrite
  split
  · exact h
  · split
    · exact h
    · split
      · exact State.inv_busyWrite h
      · next r _ _ hbusy =>
        exact (s.onlyChanged_storeReg r v).inv h (by simpa using hbusy)
          (State.base_storeReg h.base r v)

theorem State.inv_callerWriteElem {s : State} (h : s.Inv) (n i v : Nat) :
    (s.callerWriteElem n i v).Inv := by
  unfold State.callerWriteElem
  split
  · exact h
  · split
    · exact h
    · split
      · exact State.inv_busyWrite h
      · next r _ hi hbusy =>
        exact (s.onlyChanged_storeElem r i _).inv h (by simpa using hbusy)
          (State.base_storeElem h.base _ (by omega))

theorem State.ReadLeaves.inv {s t : State} (hl : s.ReadLeaves t) (h : s.Inv) : t.Inv := by
  obtain ⟨v, rfl | rfl | rfl⟩ := hl <;> exact h.of_parts_eq rfl

theorem State.inv_branch {s : State} (h : s.Inv) (n : Nat) (f : Option Field) (v l : Nat)
    (onEqual : Bool) : (s.branch n f v l onEqual).Inv := by
  have hread := (s.callerRead_leaves n).inv h
  unfold State.branch
  dsimp only
  split <;> exact hread.of_parts_eq rfl

theorem State.accessState.inv {s u : State} (hu : s.accessState u) (h : s.Inv) : u.Inv := by
  rcases hu with rfl | rfl <;> exact h.of_parts_eq rfl

/-- R230: reset leaves the registers as at launch. -/
theorem State.inv_hardReset {s : State} (h : s.Inv) : s.hardReset.Inv := by
  obtain ⟨f, d, v, e⟩ := s.restoreTimeout_eq
  rw [State.hardReset, e]
  exact (State.inv_launch h.params s.rxQ).of_parts_eq rfl

theorem StepDid.inv {s t : State} (hd : StepDid s t) (h : s.Inv) : t.Inv := by
  have hpop : s.popTurn.Inv := State.accessState.inv (.inl rfl) h
  cases hd with
  | deliver b q turn wait hq =>
    exact inv_deliver (s := { s.popTurn with rxQ := q }) (h.of_parts_eq rfl) b
  | timeout turn wait hq => exact inv_timeoutStep hpop
  | internal turn wait => exact inv_internalStep hpop
  | command i u t hi hf hu turn hx => exact inv_exec hi (hu.inv h) hx
  | illegal c u hu turn => exact State.inv_illegalCommand c (hu.inv h)
  | write n v u hu turn => exact State.inv_callerWrite (hu.inv h) n v
  | writeElem n i v u hu turn => exact State.inv_callerWriteElem (hu.inv h) n i v
  | read n u hu turn => exact (u.callerRead_leaves n).inv (hu.inv h)
  | readElem n i u hu turn => exact (u.callerReadElem_leaves n i).inv (hu.inv h)
  | branch n f v l onEqual turn => exact State.inv_branch hpop n f v l onEqual
  | moved pc turn => exact h.of_parts_eq rfl
  | terminal b turn => exact h.of_parts_eq rfl
  | reset turn => exact State.inv_hardReset hpop

/-- Settles O10: whatever the step did, it kept the base, and left either nothing in progress or a conversation in its phase. -/
theorem everyStepKeepsTheInvariant : Obligations.EveryStepKeepsTheInvariant :=
  fun _ _ h hstep => (step_did hstep).inv h

/-! ### A control byte as an instruction is its delivery -/

/-- Settles O45: exec of a control byte is its delivery, and a deliver step of that byte answers the same state; where no read is pending the byte goes back to the head of RX_Q. -/
theorem controlBytesAreOtherwiseJustBytes : Obligations.ControlBytesAreOtherwiseJustBytes := by
  intro i s hi
  refine ⟨fun hw => ⟨?_, exec_eq_next i s⟩, fun hw => ?_⟩
  · rw [exec_wire hi, step_incoming _ hw]
  · rw [exec_wire hi, deliver_of_not_readWait _ hw]

/-- The ENGINE's turn in a read-wait state with a control byte first in RX_Q fetches that byte's instruction. -/
theorem engineTurn_instr {s : State} {i : Instr} {b : Byte} {q rest : List Byte}
    (hw : s.engine.readWait = true) (hq : s.rxQ = b :: q)
    (hd : decode .wire8 [b] = .ok (i, rest)) :
    engineTurn s = .instr i { s with rxQ := q } := by
  rw [engineTurn, if_pos hw, hq]
  simp only [hd]

/-- Settles O6: scheduled or not, the turn is the ENGINE's, a read-wait state not being IDLE. -/
theorem stepRunsTheDeliveredControlByte : Obligations.StepRunsTheDeliveredControlByte := by
  intro s i b q later hsched hw hq hd
  have hidle : s.engine ≠ .idle := by
    intro he
    simp [he, EngineState.readWait] at hw
  have turn : s.nextTurn = .engine := by
    rcases hsched with hs | ⟨hs, -⟩ <;> simp [State.nextTurn, hs, hidle]
  have hpop : s.popTurn = { s with schedule := later } := by
    rcases hsched with hs | ⟨hs, rfl⟩ <;> simp [State.popTurn, hs]
  have hf : fetch s = .instr i { s with schedule := later, rxQ := q } := by
    simp only [fetch, turn, hpop]
    exact engineTurn_instr (s := { s with schedule := later }) hw hq hd
  rw [step, hf]

/-! ### What a transition does to the transport -/

/-- From `s` to `t` the bytes `w` are written to TX_LOG, and of the transport and its timeout nothing else changes. -/
def State.Sends (s t : State) (w : List Byte) : Prop :=
  t.rxQ = s.rxQ ∧ t.txLog = s.txLog ++ w ∧ t.tTimeout = s.tTimeout ∧
  t.savedTimeout = s.savedTimeout ∧ t.toSaved = s.toSaved

/-- `t` is left by `finish`, after `w` was written (R207). -/
def State.Ends (s t : State) (w : List Byte) : Prop :=
  ∃ u o c i0 i1, s.Sends u w ∧ t = u.finish o c i0 i1

/-- The timeout is saved and set (R151, R171), and `w` written. -/
def State.Saves (s t : State) (w : List Byte) : Prop :=
  t.rxQ = s.rxQ ∧ t.txLog = s.txLog ++ w ∧ t.toSaved = true ∧
  t.savedTimeout = Slot.of s.tTimeout ∧
  (s.timeoutArg.written = true → t.tTimeout = s.timeoutArg.val)

/-- A transition of a conversation: it goes on or ends. -/
def State.Conducts (s t : State) (w : List Byte) : Prop := s.Sends t w ∨ s.Ends t w

/-- An accept step: it ends at once or opens a conversation. -/
def State.Accepts (s t : State) (w : List Byte) : Prop := s.Ends t w ∨ s.Saves t w

section Transport

variable {s t u : State} {w : List Byte}

theorem State.Sends.ends (h : s.Sends u w) (o : CmdOutcome) (c : ErrCode) (i0 i1 : Byte) :
    s.Ends (u.finish o c i0 i1) w := ⟨u, o, c, i0, i1, h, rfl⟩

theorem State.Sends.ends_raise (h : s.Sends u w) (f : Failure) : s.Ends (u.raise f) w := h.ends ..

theorem State.sends_of_eq (hq : t.rxQ = s.rxQ) (hl : t.txLog = s.txLog)
    (ht : t.tTimeout = s.tTimeout) (hv : t.savedTimeout = s.savedTimeout)
    (hs : t.toSaved = s.toSaved) : s.Sends t [] :=
  ⟨hq, by rw [hl, List.append_nil], ht, hv, hs⟩

theorem State.sends_refl (s : State) : s.Sends s [] := State.sends_of_eq rfl rfl rfl rfl rfl

theorem State.sends_noteRead (s : State) (b : Bool) : s.Sends (s.noteRead b) [] := by
  obtain ⟨f, d, e⟩ := s.noteRead_eq b
  rw [e]
  exact s.sends_refl

theorem State.Ends.streams (h : s.Ends t w) : t.rxQ = s.rxQ ∧ t.txLog = s.txLog ++ w := by
  obtain ⟨u, o, c, i0, i1, ⟨hq, hl, -⟩, rfl⟩ := h
  simp [hq, hl]

theorem State.Conducts.streams (h : s.Conducts t w) :
    t.rxQ = s.rxQ ∧ t.txLog = s.txLog ++ w := by
  rcases h with ⟨hq, hl, -⟩ | h
  · exact ⟨hq, hl⟩
  · exact h.streams

theorem State.Accepts.streams (h : s.Accepts t w) : t.rxQ = s.rxQ ∧ t.txLog = s.txLog ++ w := by
  rcases h with h | ⟨hq, hl, -⟩
  · exact h.streams
  · exact ⟨hq, hl⟩

end Transport

/-! The accept steps. -/

theorem lrcStep_ends (s : State) : s.Ends (lrcStep s) [] := by
  unfold lrcStep
  split
  · exact State.Sends.ends_raise (u := { s with lrcValue := 0x00 }) s.sends_refl _
  · next v _ =>
    exact State.Sends.ends (u := { s.noteInput with lrcValue := v }) (s.sends_noteRead _) ..

theorem lrcCheckStep_ends (s : State) : s.Ends (lrcCheckStep s) [] := by
  have hread (v : Bool) :
      s.Sends { s.noteInput with status := { s.noteInput.status with check := v } } [] :=
    s.sends_noteRead _
  unfold lrcCheckStep
  dsimp only
  split
  · exact (hread _).ends ..
  · split <;> exact (hread _).ends ..

theorem encodeAskStep_ends (s : State) : s.Ends (encodeAskStep s) [] := by
  unfold encodeAskStep
  split
  · exact State.Sends.ends (u := (s.noteRead _).putFrame _) (s.sends_noteRead _) ..
  · exact (s.sends_noteRead _).ends_raise _

theorem decodeAskStep_ends (s : State) : s.Ends (decodeAskStep s) [] := by
  unfold decodeAskStep
  split
  · next a _ =>
    exact State.Sends.ends (u := { s.noteInput with ask := AskBlock.ofVal a })
      (s.sends_noteRead _) ..
  · exact (s.sends_noteRead _).ends_raise _

theorem decodeResponseStep_ends (s : State) : s.Ends (decodeResponseStep s) [] := by
  unfold decodeResponseStep
  split
  · exact State.Sends.ends (u := s.noteInput.writeResp _) (s.sends_noteRead _) ..
  · exact (s.sends_noteRead _).ends_raise _

theorem encodeResponseStep_ends (s : State) : s.Ends (encodeResponseStep s) [] := by
  unfold encodeResponseStep
  split
  · exact State.Sends.ends (u := (s.noteRead _).putFrame _) (s.sends_noteRead _) ..
  · exact (s.sends_noteRead _).ends_raise _

/-- R151: with a bad amount no byte is written and no timeout saved. -/
theorem sendStep_accepts (s : State) : ∃ w ∈ [[], [Config.enq]], s.Accepts (sendStep s) w := by
  unfold sendStep
  split
  · exact ⟨[], by simp, .inl ((s.sends_noteRead _).ends_raise _)⟩
  · exact ⟨[Config.enq], by simp, .inr (by simp +contextual [State.Saves, State.timeoutAt_written])⟩

theorem receiveStep_saves (s : State) : s.Saves (receiveStep s) [] := by
  simp +contextual [State.Saves, receiveStep, State.timeoutAt_written]

theorem acceptStep_accepts {i : Instr} (hi : i.isCommand = true) (s : State) :
    ∃ w ∈ [[], [Config.enq]], s.Accepts (acceptStep i s) w := by
  have quick {t : State} (h : s.Ends t []) : ∃ w ∈ [[], [Config.enq]], s.Accepts t w :=
    ⟨[], by simp, .inl h⟩
  cases i with
  | lrc => exact quick (lrcStep_ends s)
  | lrcCheck => exact quick (lrcCheckStep_ends s)
  | encodeAsk => exact quick (encodeAskStep_ends s)
  | decodeAsk => exact quick (decodeAskStep_ends s)
  | decodeResponse => exact quick (decodeResponseStep_ends s)
  | encodeResponse => exact quick (encodeResponseStep_ends s)
  | send => exact sendStep_accepts s
  | receive => exact ⟨[], by simp, .inr (receiveStep_saves s)⟩
  | enq | ack | nak | eot | stx | etx => nomatch hi

/-! The ENGINE's transitions. -/

theorem framingCheck_conducts (s : State) : s.Conducts (framingCheck s) [] := by
  unfold framingCheck
  dsimp only
  split
  · exact .inr ((s.sends_noteRead _).ends_raise _)
  · exact .inl (s.sends_noteRead _)

theorem readingDeliver_conducts (b : Byte) (s : State) : s.Conducts (readingDeliver b s) [] := by
  unfold readingDeliver
  dsimp only
  split
  · exact framingCheck_conducts { s with buf := _, rxCount := _ }
  · exact .inl s.sends_refl

/-- A byte received is answered with an ACK or with nothing (R172). -/
theorem deliver_conducts (b : Byte) {s : State} (hw : s.engine.readWait = true) :
    ∃ w ∈ [[], [Config.ack]], s.Conducts (deliver b s) w := by
  have quiet {t : State} (h : s.Conducts t []) : ∃ w ∈ [[], [Config.ack]], s.Conducts t w :=
    ⟨[], by simp, h⟩
  cases he : s.engine with
  | sAwaitAck =>
    rw [deliver_of_sAwaitAck b he, awaitAckDeliver]
    split
    · exact quiet (.inl s.sends_refl)
    · exact quiet (.inr (State.Sends.ends_raise (u := s.readGot b) s.sends_refl _))
  | sAwaitPostAck =>
    rw [deliver_of_sAwaitPostAck b he, awaitPostAckDeliver]
    split <;> exact quiet (.inl s.sends_refl)
  | rAwaitEnq =>
    rw [deliver_of_rAwaitEnq b he, awaitEnqDeliver]
    split
    · exact ⟨[Config.ack], by simp, .inl (by simp [State.Sends])⟩
    · exact quiet (.inr (State.Sends.ends (u := s.readGot b) s.sends_refl ..))
  | rReading =>
    rw [deliver_of_rReading b he]
    exact quiet (readingDeliver_conducts b s)
  | rAwaitEot =>
    rw [deliver_of_rAwaitEot b he]
    exact quiet (.inl s.sends_refl)
  | _ => simp [he, EngineState.readWait] at hw

theorem timeoutStep_conducts (s : State) : s.Conducts (timeoutStep s) [] := by
  unfold timeoutStep
  split
  · exact .inr (State.Sends.ends_raise (u := s.readTimedOut) s.sends_refl _)
  · exact .inl s.sends_refl
  · exact .inr (State.Sends.ends (u := s.readTimedOut) s.sends_refl ..)
  · exact .inr (s.sends_refl.ends_raise _)
  all_goals exact .inl s.sends_refl

theorem acceptingStep_conducts (s : State) : s.Conducts (acceptingStep s) [] := by
  unfold acceptingStep
  dsimp only
  split
  · exact .inl (s.sends_noteRead _)
  · exact .inr ((s.sends_noteRead _).ends_raise _)

theorem decodingStep_ends (s : State) : s.Ends (decodingStep s) [] := by
  have hread : s.Sends (s.noteRead (s.bufWritten s.expN.toNat)).noteEot [] := by
    simp [State.Sends]
  unfold decodingStep
  dsimp only
  split
  · next v _ =>
    have hkept : s.Sends
        ((s.noteRead (s.bufWritten s.expN.toNat)).noteEot.writeResp v).keepFrame [] := hread
    split
    · exact hkept.ends ..
    · exact hkept.ends_raise _
  · split
    · exact State.Sends.ends_raise
        (u := (s.noteRead (s.bufWritten s.expN.toNat)).noteEot.keepFrame) hread _
    · exact hread.ends_raise _

/-- What a step may write to TX_LOG (R64, R190): nothing, a control byte other than NAK, or in S_SENDING the frame; in a RECEIVE nothing or an ACK. -/
def State.MaySend (s : State) (w : List Byte) : Prop :=
  (w ∈ [[], [Config.enq], [Config.ack], [Config.eot]] ∨
    s.engine = .sSending ∧ w = s.bufBytes Config.askFrameLen) ∧
  (s.engine.receiving = true → s.status.busy = true → w = [] ∨ w = [Config.ack])

theorem State.maySend_nil (s : State) : s.MaySend [] := ⟨.inl (by simp), fun _ _ => .inl rfl⟩

theorem State.maySend_ack (s : State) : s.MaySend [Config.ack] :=
  ⟨.inl (by simp), fun _ _ => .inr rfl⟩

theorem internalStep_conducts (s : State) :
    ∃ w, s.MaySend w ∧ s.Conducts (internalStep s) w := by
  have heot (he : s.engine.receiving = false) : s.MaySend [Config.eot] :=
    ⟨.inl (by simp), fun hr => by simp [he] at hr⟩
  have hclose : s.Sends (s.txWrite [Config.eot]) [Config.eot] := by simp [State.Sends]
  unfold internalStep
  split
  · next he =>
    exact ⟨_, ⟨.inr ⟨he, rfl⟩, fun hr => by simp [he, EngineState.receiving] at hr⟩,
      .inl (by simp [State.Sends, sendingStep])⟩
  · next he => exact ⟨_, heot (by rw [he]; rfl), .inr (hclose.ends ..)⟩
  · next he => exact ⟨_, heot (by rw [he]; rfl), .inr (hclose.ends ..)⟩
  · exact ⟨_, s.maySend_nil, acceptingStep_conducts s⟩
  · exact ⟨_, s.maySend_ack, .inl (by simp [State.Sends, verifyingStep])⟩
  · exact ⟨_, s.maySend_nil, .inr (decodingStep_ends s)⟩
  all_goals exact ⟨_, s.maySend_nil, .inl s.sends_refl⟩

/-! The CALLER's accesses but commands. -/

theorem State.OnlyChanged.sends {s t : State} {r : Reg} (h : s.OnlyChanged t r) :
    s.Sends t [] :=
  State.sends_of_eq (congrArg State.rxQ h.rest :) (congrArg State.txLog h.rest :)
    (congrArg State.tTimeout h.rest :) (congrArg State.savedTimeout h.rest :)
    (congrArg State.toSaved h.rest :)

theorem State.ReadLeaves.sends {s t : State} (h : s.ReadLeaves t) : s.Sends t [] := by
  obtain ⟨v, rfl | rfl | rfl⟩ := h <;> exact s.sends_refl

theorem State.sends_callerWrite (s : State) (n v : Nat) : s.Sends (s.callerWrite n v) [] := by
  unfold State.callerWrite
  split
  · exact s.sends_refl
  · split
    · exact s.sends_refl
    · split
      · exact s.sends_refl
      · exact (s.onlyChanged_storeReg ..).sends

theorem State.sends_callerWriteElem (s : State) (n i v : Nat) :
    s.Sends (s.callerWriteElem n i v) [] := by
  unfold State.callerWriteElem
  split
  · exact s.sends_refl
  · split
    · exact s.sends_refl
    · split
      · exact s.sends_refl
      · exact (s.onlyChanged_storeElem ..).sends

theorem State.sends_branch (s : State) (n : Nat) (f : Option Field) (v l : Nat)
    (onEqual : Bool) : s.Sends (s.branch n f v l onEqual) [] := by
  have hread := (s.callerRead_leaves n).sends
  unfold State.branch
  dsimp only
  split <;> exact hread

/-- The state an access is made in has the transport of the state before. -/
theorem State.accessState.sends {s u t : State} (hu : s.accessState u) (h : u.Sends t []) :
    s.Sends t [] := by
  rcases hu with rfl | rfl <;> exact h

theorem State.accessState.accepts {s u t : State} {w : List Byte} (hu : s.accessState u)
    (h : u.accept.Accepts t w) : s.accept.Accepts t w := by
  rcases hu with rfl | rfl <;> exact h

/-! ### What a step does to the transport -/

/-- What RX_Q may be after a step (R65, R70, R71). -/
def State.MayQueue (s : State) (q : List Byte) : Prop :=
  (q = s.rxQ ∨ (∃ b, s.nextTurn = .terminal b ∧ q = s.rxQ ++ [b]) ∨
    s.nextTurn = .engine ∧ s.engine.readWait = true ∧ ∃ b, s.rxQ = b :: q) ∧
  (s.nextTurn = .engine → s.engine.readWait = true → q = s.rxQ.tail)

theorem State.mayQueue_self {s : State}
    (h : s.nextTurn = .engine → s.engine.readWait = true → s.rxQ = []) : s.MayQueue s.rxQ :=
  ⟨.inl rfl, fun turn wait => by rw [h turn wait, List.tail_nil]⟩

/-- One step, the queue taken as the step leaves it: a transition of a conversation or nothing, an accepted command, or reset. -/
def State.Transacts (s t : State) (q w : List Byte) : Prop :=
  { s with rxQ := q }.Conducts t w ∨
  s.status.busy = false ∧ { s with rxQ := q }.accept.Accepts t w ∨
  s.nextTurn = .reset ∧ t = { s.popTurn with rxQ := q }.hardReset ∧ w = []

/-- A command written is refused where BUSY = 1, and else runs its accept step. -/
theorem State.accessState.transacts_command {s u : State} (hu : s.accessState u)
    {f : State → State} (hf : ∀ v : State, ∃ w ∈ [[], [Config.enq]], v.Accepts (f v) w) :
    ∃ w, s.MaySend w ∧ s.Transacts (u.command f) s.rxQ w := by
  cases hbusy : s.status.busy with
  | true =>
    rw [State.command_busy (by rw [hu.status_eq, hbusy])]
    exact ⟨[], s.maySend_nil, .inl (.inl (hu.sends u.sends_refl))⟩
  | false =>
    rw [State.command_idle (by rw [hu.status_eq, hbusy])]
    obtain ⟨w, hw, ha⟩ := hf u.accept
    refine ⟨w, ⟨.inl ?_, fun _ hb => by simp [hbusy] at hb⟩, .inr (.inl ⟨hbusy, hu.accepts ha⟩)⟩
    exact List.mem_append_left [[Config.ack], [Config.eot]] hw

theorem StepDid.transacts {s t : State} (h : StepDid s t) :
    ∃ q w, s.MayQueue q ∧ s.MaySend w ∧ s.Transacts t q w := by
  have access {t : State} (turn : s.nextTurn ≠ .engine) (h : s.Sends t []) :
      ∃ q w, s.MayQueue q ∧ s.MaySend w ∧ s.Transacts t q w :=
    ⟨s.rxQ, [], State.mayQueue_self fun he => absurd he turn, s.maySend_nil, .inl (.inl h)⟩
  cases h with
  | deliver b q turn wait hq =>
    obtain ⟨w, hw, hc⟩ := deliver_conducts b (s := { s.popTurn with rxQ := q }) wait
    have hsend : s.MaySend w := by
      simp only [List.mem_cons, List.not_mem_nil, or_false] at hw
      rcases hw with rfl | rfl
      · exact s.maySend_nil
      · exact s.maySend_ack
    exact ⟨q, w, ⟨.inr (.inr ⟨turn, wait, b, hq⟩), fun _ _ => by rw [hq, List.tail_cons]⟩,
      hsend, .inl hc⟩
  | timeout turn wait hq =>
    exact ⟨s.rxQ, [], State.mayQueue_self fun _ _ => hq, s.maySend_nil,
      .inl (timeoutStep_conducts s.popTurn)⟩
  | internal turn wait =>
    obtain ⟨w, hw, hc⟩ := internalStep_conducts s.popTurn
    exact ⟨s.rxQ, w, State.mayQueue_self fun _ he => by simp [wait] at he, hw, .inl hc⟩
  | command i u t hi hf hu turn hx =>
    rw [exec_command hi] at hx
    cases hx
    obtain ⟨w, hw, ht⟩ := hu.transacts_command (acceptStep_accepts hi)
    exact ⟨s.rxQ, w, State.mayQueue_self fun he => absurd he turn, hw, ht⟩
  | illegal c u hu turn =>
    obtain ⟨w, hw, ht⟩ := hu.transacts_command (f := fun v => v.raise
      { code := .illegalCommand, info0 := c, info1 := 0 })
      fun v => ⟨[], by simp, .inl (v.sends_refl.ends_raise _)⟩
    exact ⟨s.rxQ, w, State.mayQueue_self fun he => absurd he turn, hw, ht⟩
  | write n v u hu turn => exact access turn (hu.sends (u.sends_callerWrite n v))
  | writeElem n i v u hu turn => exact access turn (hu.sends (u.sends_callerWriteElem n i v))
  | read n u hu turn => exact access turn (hu.sends (u.callerRead_leaves n).sends)
  | readElem n i u hu turn => exact access turn (hu.sends (u.callerReadElem_leaves n i).sends)
  | branch n f v l onEqual turn =>
    exact access (by simp [turn]) (s.popTurn.sends_branch n f v l onEqual)
  | moved pc turn => exact access (by simp [turn]) s.sends_refl
  | terminal b turn =>
    exact ⟨s.rxQ ++ [b], [], ⟨.inr (.inl ⟨b, turn, rfl⟩), fun he => by simp [turn] at he⟩,
      s.maySend_nil, .inl (.inl (State.sends_refl { s with rxQ := s.rxQ ++ [b] }))⟩
  | reset turn =>
    exact ⟨s.rxQ, [], State.mayQueue_self fun he => by simp [turn] at he, s.maySend_nil,
      .inr (.inr ⟨turn, rfl, rfl⟩)⟩

theorem State.Transacts.streams {s t : State} {q w : List Byte} (h : s.Transacts t q w) :
    t.rxQ = q ∧ t.txLog = s.txLog ++ w := by
  rcases h with h | ⟨-, h⟩ | ⟨-, rfl, rfl⟩
  · exact h.streams
  · exact h.streams
  · simp [State.hardReset, State.launch]

/-- Settles O53: the bytes appended are those of the one transition, acceptance or nothing the step is. -/
theorem transmitLogOnlyGrows : Obligations.TransmitLogOnlyGrows := by
  intro s t h
  obtain ⟨q, w, -, hw, ht⟩ := (step_did h).transacts
  exact ⟨w, ht.streams.2, hw⟩

/-- Settles O54: beside the TERMINAL's byte only a deliver step changes RX_Q, and it runs whenever a read is pending and a byte is there. -/
theorem receiveQueueIsFirstInFirstOut : Obligations.ReceiveQueueIsFirstInFirstOut := by
  intro s t h
  obtain ⟨q, w, hq, -, ht⟩ := (step_did h).transacts
  obtain ⟨rfl, -⟩ := ht.streams
  exact hq

/-! ### The saved timeout -/

/-- `finish` restores the timeout where one is saved, and else leaves all three alone (R207). -/
theorem State.Ends.timeout {s t : State} {w : List Byte} (h : s.Ends t w) (hs : s.savedOk) :
    t.toSaved = false ∧ t.savedTimeout = s.savedTimeout ∧
      t.tTimeout = if s.toSaved then s.savedTimeout.val else s.tTimeout := by
  obtain ⟨u, o, c, i0, i1, ⟨-, -, htime, hval, hsaved⟩, rfl⟩ := h
  have hu : u.savedOk := by rwa [State.savedOk, hsaved, hval]
  rw [State.finish_eq_ended hu]
  simp [State.ended, htime, hval, hsaved]

theorem State.hardReset_timeout {s : State} (hs : s.savedOk) : s.hardReset.toSaved = false ∧
    s.hardReset.tTimeout = if s.toSaved then s.savedTimeout.val else s.tTimeout := by
  refine ⟨rfl, ?_⟩
  cases hsaved : s.toSaved with
  | true => simp [State.hardReset, hsaved, State.timeoutAt_written _ _ (hs hsaved)]
  | false => simp [State.hardReset, hsaved]

/-- Settles O55: acceptance saves the timeout, from IDLE and so with nothing saved before; `finish` and reset restore it. -/
theorem timeoutKnobIsSavedAndRestored : Obligations.TimeoutKnobIsSavedAndRestored := by
  intro s t hinv h
  have hs : s.savedOk := hinv.savedWritten
  obtain ⟨q, w, -, -, (⟨-, -, hsame⟩ | hend) | ⟨hbusy, hacc⟩ | ⟨turn, rfl, -⟩⟩ :=
    (step_did h).transacts
  · exact .inl hsame
  · obtain ⟨hto, hval, htime⟩ := hend.timeout hs
    cases hsaved : s.toSaved with
    | true => exact .inr (.inr (.inl ⟨rfl, hto, by simpa [hsaved] using htime⟩))
    | false => exact .inl ⟨by simpa [hsaved] using htime, hval, hto⟩
  · have hsaved : s.toSaved = false := by
      rw [← Bool.not_eq_true, hinv.saved, ← hinv.busy, hbusy]
      simp
    rcases hacc with hend | ⟨-, -, hto, hval, htime⟩
    · obtain ⟨hto, hval, htime⟩ := hend.timeout nofun
      exact .inl ⟨by simpa using htime, hval, hto.trans hsaved.symm⟩
    · exact .inr (.inl ⟨hsaved, hto, hval, htime⟩)
  · obtain ⟨hto, htime⟩ := State.hardReset_timeout (s := { s.popTurn with rxQ := q }) hs
    cases hsaved : s.toSaved with
    | true => exact .inr (.inr (.inl ⟨rfl, hto, by simpa [hsaved] using htime⟩))
    | false => exact .inr (.inr (.inr ⟨turn, rfl, hto, by simpa [hsaved] using htime⟩))

end Sys2Proof.Machine

/-! PROOFS. The statements about encodings: the command words and control bytes, the steps that fetch a command, the CALLER's branches, and the frames the codec lays out and takes apart. -/

namespace Sys2Proof.Machine

/-! ### The words of the table -/

/-- The decoder of one byte, by format (R85, R89). -/
def decodeByte : Format → Byte → Except DecodeError Instr
  | .cmd8 => decodeCommand
  | .wire8 => decodeWire

/-- Both decoders read one byte and leave what follows (R85, R97). -/
theorem decode_cons (f : Format) (b : Byte) (rest : List Byte) :
    decode f (b :: rest) = (decodeByte f b).map (·, rest) := by
  cases f with
  | cmd8 =>
    simp only [decode, decodeByte]
    cases decodeCommand b <;> rfl
  | wire8 =>
    simp only [decode, decodeByte]
    cases decodeWire b <;> rfl

theorem decodeByte_byte (i : Instr) : decodeByte i.format i.byte = .ok i := by
  cases i <;> rfl

/-- Settles O1: each format's decoder reads back the byte of each of its instructions. -/
theorem decodeOfEncodeGivesTheInstruction : Obligations.DecodeOfEncodeGivesTheInstruction := by
  intro i rest
  rw [encode, List.singleton_append, decode_cons, decodeByte_byte]
  rfl

/-- Settles O3: each of the fourteen words is the encoding of its row's instruction. -/
theorem tableWordsDecodeAsTheTableSays : Obligations.TableWordsDecodeAsTheTableSays :=
  have word (i : Instr) := decodeOfEncodeGivesTheInstruction i []
  ⟨word .lrc, word .lrcCheck, word .encodeAsk, word .decodeAsk, word .decodeResponse,
    word .encodeResponse, word .send, word .receive, word .enq, word .ack, word .nak, word .eot,
    word .stx, word .etx⟩

/-- A command word is its code where the reserved bits are 0 (R85). -/
theorem opcField_toNat {c : Byte} (h : rsvField c = 0) : (opcField c).toNat = c.toNat := by
  have hr : (rsvField c).toNat = 0 := by rw [h]; rfl
  simp only [rsvField, opcField, BitVec.extractLsb'_toNat] at hr ⊢
  omega

/-- The codes of R86 are the commands' words. -/
theorem commandOf_eq_some {opc : BitVec 4} {i : Instr} (h : commandOf opc = some i) :
    i.format = .cmd8 ∧ i.byte.toNat = opc.toNat := by
  unfold commandOf at h
  split at h
  all_goals cases h
  all_goals exact ⟨rfl, Eq.symm ‹_›⟩

/-- No command has the code 0x0 or 0x9 to 0xF (R87). -/
theorem commandOf_eq_none {opc : BitVec 4} (h : opc.toNat = 0 ∨ 9 ≤ opc.toNat) :
    commandOf opc = none := by
  unfold commandOf
  split
  case h_9 => rfl
  all_goals omega

theorem decodeCommand_eq_ok {c : Byte} {i : Instr} (h : decodeCommand c = .ok i) :
    i.format = .cmd8 ∧ i.byte = c := by
  unfold decodeCommand at h
  split at h
  · cases h
  · rename_i hrsv
    split at h
    · cases h
      obtain ⟨hf, hb⟩ := commandOf_eq_some ‹_›
      exact ⟨hf, BitVec.eq_of_toNat_eq (hb.trans (opcField_toNat (not_not.mp hrsv)))⟩
    · cases h

/-- A word R87 calls illegal: OPC 0x0 or 0x9 to 0xF, or RSV not 0. -/
theorem decodeCommand_illegal {c : Byte}
    (h : (opcField c).toNat = 0 ∨ 9 ≤ (opcField c).toNat ∨ rsvField c ≠ 0) :
    ∃ e, decodeCommand c = .error e := by
  unfold decodeCommand
  split
  · exact ⟨_, rfl⟩
  · rename_i hrsv
    rw [commandOf_eq_none (by tauto)]
    exact ⟨_, rfl⟩

theorem decodeWire_eq_ok {b : Byte} {i : Instr} (h : decodeWire b = .ok i) :
    i.format = .wire8 ∧ i.byte = b := by
  rcases decodeWire_cases b with ⟨j, hj, hf, hb⟩ | hb
  · cases hj.symm.trans h
    exact ⟨hf, hb⟩
  · cases hb.symm.trans h

theorem decodeByte_eq_ok {f : Format} {b : Byte} {i : Instr} (h : decodeByte f b = .ok i) :
    i.format = f ∧ i.byte = b := by
  cases f with
  | cmd8 => exact decodeCommand_eq_ok h
  | wire8 => exact decodeWire_eq_ok h

/-- Settles O2: one byte is read, and each decoder answers only with the instruction that has that byte. -/
theorem decodedWordIsItsEncoding : Obligations.DecodedWordIsItsEncoding := by
  intro f bytes rest i h
  cases bytes with
  | nil => cases h
  | cons b bs =>
    rw [decode_cons] at h
    cases hd : decodeByte f b with
    | error e => simp [hd, Except.map] at h
    | ok j =>
      obtain ⟨rfl, rfl⟩ : j = i ∧ bs = rest := by simpa [hd, Except.map] using h
      obtain ⟨hf, rfl⟩ := decodeByte_eq_ok hd
      exact ⟨hf, rfl⟩

/-! ### Steps that fetch a command -/

theorem step_of_fetch_instr {s t : State} {i : Instr} (h : fetch s = .instr i t) :
    step s = exec i t := by
  rw [step, h]

theorem step_of_fetch_done {s t : State} (h : fetch s = .done t) : step s = .next t := by
  rw [step, h]

theorem fetch_access {s : State} {a : Access} {later : List Turn}
    (h : s.schedule = .access a :: later) :
    fetch s = accessTurn a { s with schedule := later } := by
  simp only [fetch, State.nextTurn, State.popTurn, h, List.tail_cons]

/-- A CALLER's turn executes the statement its program is at. -/
theorem fetch_caller {s : State} {st : Stmt} {later : List Turn}
    (h : s.schedule = .caller :: later) (hst : s.program[s.callerPc]? = some st) :
    fetch s = stmtTurn st { s with schedule := later } := by
  simp only [fetch, State.nextTurn, State.popTurn, h, List.tail_cons, callerTurn, hst]

/-- A write to CMD fetches the command the value's low byte stands for. -/
theorem accessTurn_writeCmd {s : State} {v : Nat} {i : Instr} {rest : List Byte}
    (h : decode .cmd8 [BitVec.ofNat 8 v] = .ok (i, rest)) :
    accessTurn (.write Reg.cmd.number v) s = .instr i s := by
  have hw : (Access.write Reg.cmd.number v).wellFormed = true := rfl
  rw [accessTurn, if_pos hw]
  simp only [if_true, h]

theorem accessTurn_writeCmd_illegal {s : State} {v : Nat} {e : DecodeError}
    (h : decode .cmd8 [BitVec.ofNat 8 v] = .error e) :
    accessTurn (.write Reg.cmd.number v) s =
      .done (s.illegalCommand (BitVec.ofNat 8 v)) := by
  have hw : (Access.write Reg.cmd.number v).wellFormed = true := rfl
  rw [accessTurn, if_pos hw]
  simp only [if_true, h]

/-- Settles O4: the word is none the decoder has, so the write is acceptance and `raise` in one step. -/
theorem illegalCommandWordFinishesAtOnce : Obligations.IllegalCommandWordFinishesAtOnce := by
  intro s c hbusy hc
  obtain ⟨e, he⟩ := decodeCommand_illegal hc
  have hd : decode .cmd8 [BitVec.ofNat 8 c.toNat] = .error e := by
    rw [BitVec.ofNat_toNat, BitVec.setWidth_eq, decode_cons]
    exact congrArg (Except.map _) he
  have hill : s.illegalCommand c = s.completed .error .illegalCommand c 0 :=
    (State.command_idle hbusy _).trans (s.raise_accept _)
  refine step_of_fetch_done ((fetch_access rfl).trans ?_)
  refine (accessTurn_writeCmd_illegal hd).trans ?_
  rw [BitVec.ofNat_toNat, BitVec.setWidth_eq]
  exact congrArg Fetched.done hill

/-- Settles O5: scheduled as an access or as the program's next statement, the write fetches the command. -/
theorem stepRunsTheWrittenCommand : Obligations.StepRunsTheWrittenCommand := by
  refine ⟨fun s v i later hsched hd => ?_, fun s v i later hsched hst hd => ?_⟩
  · exact step_of_fetch_instr ((fetch_access hsched).trans (accessTurn_writeCmd hd))
  · exact step_of_fetch_instr ((fetch_caller hsched hst).trans (accessTurn_writeCmd hd))

/-! ### The CALLER's branches -/

/-- A read leaves the CALLER's program and its position alone. -/
theorem State.callerRead_program (s : State) (n : Nat) :
    (s.callerRead n).program = s.program ∧ (s.callerRead n).callerPc = s.callerPc := by
  obtain ⟨v, h | h | h⟩ := s.callerRead_leaves n <;> rw [h] <;> exact ⟨rfl, rfl⟩

/-- JEQ and JNE jump where the comparison comes out as they want it, and go on otherwise (R98). -/
theorem State.branch_eq (s : State) (n : Nat) (f : Option Field) (v l : Nat) (onEqual : Bool) :
    s.branch n f v l onEqual =
      { s.callerRead n with
        callerPc := if decide (Field.select f (s.callerRead n).rdata = v) = onEqual
          then s.program.idxOf (.label l) else s.callerPc + 1 } := by
  obtain ⟨hprog, hpc⟩ := s.callerRead_program n
  unfold State.branch
  dsimp only
  split
  · rw [State.jump, hprog]
  · rw [State.callerNext, hpc]

/-- A step of the CALLER's program at a well-formed JEQ. -/
theorem step_jeq {s : State} {n v l : Nat} {f : Option Field} {later : List Turn}
    (hsched : s.schedule = .caller :: later) (hst : s.program[s.callerPc]? = some (.jeq n f v l))
    (hw : (Stmt.jeq n f v l).wellFormed s.program = true) :
    step s = .next ({ s with schedule := later }.branch n f v l true) :=
  step_of_fetch_done ((fetch_caller hsched hst).trans (if_pos hw))

/-- A step of the CALLER's program at a well-formed JNE; JEQ and JNE are well formed alike. -/
theorem step_jne {s : State} {n v l : Nat} {f : Option Field} {later : List Turn}
    (hsched : s.schedule = .caller :: later) (hst : s.program[s.callerPc]? = some (.jne n f v l))
    (hw : (Stmt.jeq n f v l).wellFormed s.program = true) :
    step s = .next ({ s with schedule := later }.branch n f v l false) :=
  step_of_fetch_done ((fetch_caller hsched hst).trans (if_pos hw))

/-- BUSY is bit 0 of STATUS (R26). -/
theorem select_busy (s : Status) : Field.select (some .busy) s.word.toNat = s.busy.toNat := by
  have := s.busy.toNat_lt
  simp only [Field.select, Field.bits, Status.word_toNat]
  omega

/-- Settles O52: one branch law for both senses; WAIT's is JEQ on BUSY, read from STATUS as ever. -/
theorem branchesReadAndThenJump : Obligations.BranchesReadAndThenJump := by
  refine ⟨fun s n v l f later hsched hw => ⟨_, rfl, fun hst => ?_, fun hst => ?_⟩,
    fun s w later hsched hst hw => ?_⟩
  · rw [step_jeq hsched hst hw, State.branch_eq]
    exact ⟨fun h => by simp [h], fun h => by simp [h]⟩
  · rw [step_jne hsched hst hw, State.branch_eq]
    exact ⟨fun h => by simp [h], fun h => by simp [h]⟩
  · have hread : { s with schedule := later }.callerRead Reg.status.number =
        { s with schedule := later, rdata := s.status.word.toNat } :=
      State.callerRead_written (.inr rfl) rfl
    rw [step_jeq hsched hst hw, State.branch_eq]
    simp only [show (0x02 : Nat) = Reg.status.number from rfl, hread, select_busy]
    cases s.status.busy <;> rfl

/-! ### The frame -/

theorem frame_eq (p : List Byte) :
    frame p = 0x02#8 :: (p ++ [0x03#8, (p ++ [0x03#8]).foldl (· ^^^ ·) 0]) := by
  simp [frame, xorFold_eq_foldl, Config.stx, Config.etx]

/-- `lrc_ok` of a frame taken apart: its last byte is the XOR of what lies between it and the first (R111). -/
theorem lrcOk_parts (a : Byte) (p : List Byte) (b c : Byte) :
    lrcOk (a :: (p ++ [b, c])) = ((p ++ [b]).foldl (· ^^^ ·) 0 == c) := by
  rw [← xorFold_eq_foldl, ← lrcOk_cons a (p ++ [b]) c (by simp), List.append_assoc]
  rfl

/-- Settles O17: the frame written out, its checksum is the one `lrc_ok` computes. -/
theorem frameStripsToItsPayload : Obligations.FrameStripsToItsPayload := by
  intro p
  refine ⟨?_, ?_, frame_length p, frame_eq p⟩
  · rw [frame_eq, strip_cons]
  · rw [frame_eq, lrcOk_parts, beq_self_eq_true]

/-! ### A sequence held in memory -/

/-- The memory `m` holds the bytes `bs` from index `k` on (R13). -/
def Memory.HoldsAt (m : Memory) (k : Nat) (bs : List Byte) : Prop :=
  ∀ j, j < bs.length → m.read (k + j) = bs[j]?

theorem Memory.holdsAt_singleton {m : Memory} {k : Nat} {b : Byte} :
    m.HoldsAt k [b] ↔ m.read k = some b := by
  simp [Memory.HoldsAt]

/-- A sequence lies in memory part after part. -/
theorem Memory.holdsAt_append {m : Memory} {k : Nat} {xs ys : List Byte} :
    m.HoldsAt k (xs ++ ys) ↔ m.HoldsAt k xs ∧ m.HoldsAt (k + xs.length) ys := by
  constructor
  · intro h
    refine ⟨fun j hj => ?_, fun j hj => ?_⟩
    · have := h j (by simp; omega)
      rwa [List.getElem?_append_left hj] at this
    · have := h (xs.length + j) (by simpa using hj)
      rwa [List.getElem?_append_right (by omega), Nat.add_sub_cancel_left, ← Nat.add_assoc] at this
  · rintro ⟨hx, hy⟩ j hj
    by_cases hlt : j < xs.length
    · rw [List.getElem?_append_left hlt]
      exact hx j hlt
    · rw [List.getElem?_append_right (by omega), ← hy (j - xs.length) (by simp at hj; omega)]
      congr 1
      omega

theorem Memory.holdsAt_of_storedFrame {m m' : Memory} {f : List Byte} (h : m.storedFrame m' f) :
    m'.HoldsAt 0 f := fun j hj => (congrArg m'.read (Nat.zero_add j)).trans (h.1 j hj)

/-- The checksum of a sequence, taken over the bytes of memory that hold it. -/
theorem Memory.foldl_xor_of_holdsAt {m : Memory} {k : Nat} {bs : List Byte}
    (h : m.HoldsAt k bs) :
    (List.range bs.length).foldl (fun x j => x ^^^ (m.read (k + j)).getD 0) 0 = xorFold bs := by
  have hbs : (List.range bs.length).map (fun j => (m.read (k + j)).getD 0) = bs := by
    apply List.ext_getElem (by simp)
    intro j _ hj
    simp [h j hj, hj]
  rw [xorFold_eq_foldl, ← List.foldl_map (f := fun j => (m.read (k + j)).getD 0) (g := (· ^^^ ·)),
    hbs]

/-! ### ENCODE_ASK -/

/-- A frame left in BUF by a command that then finishes OK in the step that accepts it (R62, R206). -/
theorem State.putFrame_accept_finish (s : State) (f : List Byte) :
    ∃ m : Memory, s.buf.storedFrame m f ∧ (s.accept.putFrame f).finish .ok .none 0 0 =
      { s.completed .ok .none 0 0 with buf := m, bufLen := BitVec.ofNat 16 f.length } := by
  refine ⟨_, Memory.storedFrame_writeAll s.buf f, ?_⟩
  rw [State.finish_unsaved (by simp)]
  rfl

/-- Of a State's Ask, enc_ask answers the frame of its payload where the amount is in range (R124, R125). -/
theorem encAsk_eq_ok {s : State} {c : Nat}
    (h : amountCents s.askVal.mant.toNat s.askVal.scale.toNat = .ok c) :
    encAsk s.askVal = .ok (frame (askPayload s.askVal c)) := by
  simp only [encAsk, h]
  rw [if_neg (by simp [askPayload_length])]

/-- ENCODE_ASK of a written ASK block that can be encoded (R124). -/
theorem exec_encodeAsk_ok {s : State} {f : List Byte} (hbusy : s.status.busy = false)
    (hw : s.ask.written = true) (h : encAsk s.askVal = .ok f) :
    ∃ m : Memory, s.buf.storedFrame m f ∧ exec .encodeAsk s =
      .next { s.completed .ok .none 0 0 with buf := m, bufLen := BitVec.ofNat 16 f.length } := by
  obtain ⟨m, hm, hfin⟩ := s.putFrame_accept_finish f
  refine ⟨m, hm, ?_⟩
  rw [exec_command rfl, State.command_idle hbusy, ← hfin]
  simp only [acceptStep, encodeAskStep, State.askVal_accept, h, State.accept_fields, hw,
    State.noteRead_true]

/-- A frame in memory: STX, the payload, ETX and the XOR of the bytes between the first and the last (R90). -/
theorem Memory.holdsAt_frame {m : Memory} {p : List Byte} (h : m.HoldsAt 0 (frame p)) :
    m.read 0 = some Config.stx ∧ m.HoldsAt 1 p ∧ m.read (1 + p.length) = some Config.etx ∧
    m.read (2 + p.length) = some ((List.range (p.length + 1)).foldl
      (fun x k => x ^^^ (m.read (1 + k)).getD 0) 0) := by
  have hparts : frame p = [Config.stx] ++ (p ++ [Config.etx]) ++ [xorFold (p ++ [Config.etx])] := by
    simp [frame]
  rw [hparts, Memory.holdsAt_append, Memory.holdsAt_append, Memory.holdsAt_singleton,
    Memory.holdsAt_singleton] at h
  obtain ⟨⟨hstx, hbody⟩, hsum⟩ := h
  have hfold := Memory.foldl_xor_of_holdsAt hbody
  obtain ⟨hp, hetx⟩ := Memory.holdsAt_append.mp hbody
  simp only [List.length_append, List.length_singleton] at hsum hfold
  refine ⟨hstx, hp, Memory.holdsAt_singleton.mp hetx, ?_⟩
  rw [hfold, ← hsum]
  congr 1
  omega

/-- The fields of a written ASK block's payload, each at its frame offset (R92). -/
theorem Memory.holdsAt_askPayload {m : Memory} {s : State} {c : Nat} (hw : s.ask.written = true)
    (h : m.HoldsAt 1 (askPayload s.askVal c)) :
    m.HoldsAt 1 s.ask.pos.values ∧ m.HoldsAt 3 (decDigits 8 c) ∧
    m.read 11 = some s.ask.answerFlag.val ∧ m.read 12 = some s.ask.paymentMode.val ∧
    m.read 13 = some s.ask.transactionType.val ∧ m.HoldsAt 14 s.ask.currency.values ∧
    m.HoldsAt 17 s.ask.priv.values ∧ m.HoldsAt 27 s.ask.delay.values ∧
    m.HoldsAt 31 s.ask.auth.values := by
  rw [State.askVal_written s hw] at h
  simpa only [askPayload, Memory.holdsAt_append, Memory.holdsAt_singleton, List.length_append,
    List.length_singleton, decDigits_length, Config.amountDigits, ByteReg.values_length,
    Nat.reduceAdd, and_assoc] using h

/-- `dec_n` byte by byte (R16). -/
theorem decDigits_getElem? {n k : Nat} (v : Nat) (h : k < n) :
    (decDigits n v)[k]? = some (BitVec.ofNat 8 (0x30 + v / 10 ^ (n - 1 - k) % 10)) := by
  simp [decDigits, h]

/-- Settles O18: the frame's bytes are found in BUF part by part. -/
theorem encodeAskLaysOutTheFrame : Obligations.EncodeAskLaysOutTheFrame := by
  intro s c hbusy hw hc
  have hlen := askPayload_length s c
  have henc : encAsk s.askVal = .ok (frame (askPayload s.askVal c)) :=
    encAsk_eq_ok (by rw [s.askVal_written hw]; exact hc)
  obtain ⟨m, hstored, hexec⟩ := exec_encodeAsk_ok hbusy hw henc
  obtain ⟨hstx, hpay, hetx, hsum⟩ :=
    Memory.holdsAt_frame (Memory.holdsAt_of_storedFrame hstored)
  obtain ⟨hpos, hamount, hflag, hmode, htype, hcur, hpriv, hdelay, hauth⟩ :=
    Memory.holdsAt_askPayload hw hpay
  rw [hlen] at hetx hsum
  rw [frame_length, hlen] at hexec
  refine ⟨m, hexec, hstx, fun k hk => ?_, fun k hk => ?_, hflag, hmode, htype, fun k hk => ?_,
    fun k hk => ?_, fun k hk => ?_, fun k hk => ?_, hetx, hsum, fun k hk => ?_⟩
  · exact hpos k (by simpa using hk)
  · exact (hamount k (by simpa using hk)).trans (decDigits_getElem? c hk)
  · exact hcur k (by simpa using hk)
  · exact hpriv k (by simpa using hk)
  · exact hdelay k (by simpa using hk)
  · exact hauth k (by simpa using hk)
  · exact hstored.2 k (by rw [frame_length, hlen]; exact hk)

/-! ### ENCODE_RESPONSE -/

/-- The registers of a written RESP block, one by one. -/
theorem RespBlock.written_iff (r : RespBlock) : r.written = true ↔
    r.pos.written = true ∧ r.result.written = true ∧ r.amount.written = true ∧
    r.paymentMode.written = true ∧ r.reportLen.written = true ∧ r.currency.written = true ∧
    r.priv.written = true ∧
    (r.reportLen.val.toNat = Config.reportLen → r.report.written = true) := by
  simp [RespBlock.written, and_assoc, ← imp_iff_not_or]

/-- The report a RESP block holds: none unless RESP_REPORT_LEN = 55 (R134). -/
def RespBlock.reportHeld (r : RespBlock) : List Byte :=
  if r.reportLen.val.toNat = Config.reportLen then r.report.values else []

section WrittenResponse

variable {s : State} (hw : s.resp.written = true)
include hw

theorem State.respReportLen_written : s.respReportLen = s.resp.reportLen.val := by
  obtain ⟨-, -, -, -, hlen, -, -, -⟩ := (RespBlock.written_iff _).mp hw
  exact State.bitsAt_written _ _ _ hlen

/-- A written RESP block reads as the values it holds. -/
theorem State.respVal_written : s.respVal =
    { pos := s.resp.pos.values, result := s.resp.result.val, amount := s.resp.amount.val
      paymentMode := s.resp.paymentMode.val, report := s.resp.reportHeld
      currency := s.resp.currency.values, priv := s.resp.priv.values } := by
  have hlen := State.respReportLen_written hw
  obtain ⟨hpos, hresult, hamount, hmode, -, hcur, hpriv, hreport⟩ := (RespBlock.written_iff _).mp hw
  have hrep : s.respVal.report = s.resp.reportHeld := by
    simp only [State.respVal, RespBlock.reportHeld, hlen]
    split
    · exact State.bytesAt_written _ _ (hreport ‹_›)
    · rfl
  rw [← hrep]
  simp [State.respVal, State.bytesAt_written, State.bitsAt_written, *]

/-- What ENCODE_RESPONSE reads of a written RESP block is written. -/
theorem State.respReadsWritten_written : s.respReadsWritten = true := by
  have hlen := State.respReportLen_written hw
  obtain ⟨hpos, hresult, hamount, hmode, hl, hcur, hpriv, hreport⟩ :=
    (RespBlock.written_iff _).mp hw
  simp only [State.respReadsWritten, hpos, hresult, hamount, hmode, hl, hcur, hpriv, hlen]
  simpa using .inr (.inr (.inr (imp_iff_not_or.mp hreport)))

/-- ENCODE_RESPONSE of a written RESP block that can be encoded (R135). -/
theorem exec_encodeResponse_ok {f : List Byte} (hbusy : s.status.busy = false)
    (h : encResp s.respReportLen.toNat s.respVal = .ok f) :
    ∃ m : Memory, s.buf.storedFrame m f ∧ exec .encodeResponse s =
      .next { s.completed .ok .none 0 0 with buf := m, bufLen := BitVec.ofNat 16 f.length } := by
  obtain ⟨m, hm, hfin⟩ := s.putFrame_accept_finish f
  refine ⟨m, hm, ?_⟩
  rw [exec_command rfl, State.command_idle hbusy, ← hfin]
  simp only [acceptStep, encodeResponseStep, State.respReportLen_accept, State.respVal_accept, h,
    State.respReadsWritten_accept, State.respReadsWritten_written hw, State.noteRead_true]

end WrittenResponse

/-- enc_resp answers the frame of the payload where its three checks pass (R134). -/
theorem encResp_eq_ok {l : Nat} {v : RespVal} (hl : l = 55 ∨ l = 0) (hr : v.result.toNat ≤ 9)
    (ha : v.amount.toNat ≤ 99999999) : encResp l v = .ok (frame (respPayload v)) := by
  unfold encResp
  rw [if_neg (by simp only [Config.reportLen]; omega), if_neg (by omega),
    if_neg (by simp only [Config.respAmountMax]; omega)]

/-- Settles O25: the payload is that of the written block, and the frame around it is what is stored. -/
theorem encodeResponseLaysOutTheFrame : Obligations.EncodeResponseLaysOutTheFrame := by
  intro s rep hbusy hw hrep hresult hamount
  have hval := State.respVal_written hw
  have hl : s.resp.reportLen.val.toNat = 55 ∨ s.resp.reportLen.val.toNat = 0 := by
    rcases hrep with ⟨h, -⟩ | ⟨h, -⟩ <;> simp [h]
  have hheld : s.resp.reportHeld = rep := by
    rcases hrep with ⟨h, rfl⟩ | ⟨h, rfl⟩ <;> simp [RespBlock.reportHeld, h, Config.reportLen]
  have henc : encResp s.respReportLen.toNat s.respVal = .ok (frame (respPayload s.respVal)) := by
    rw [State.respReportLen_written hw]
    exact encResp_eq_ok hl (by rw [hval]; exact hresult) (by rw [hval]; exact hamount)
  have hlen : (respPayload s.respVal).length = 25 + rep.length := by
    simp only [hval, hheld, respPayload, List.length_append, List.length_singleton,
      decDigits_length, ByteReg.values_length, Config.amountDigits]
    omega
  obtain ⟨m, hstored, hexec⟩ := exec_encodeResponse_ok hw hbusy henc
  rw [frame_length, hlen, Nat.add_right_comm] at hexec
  refine ⟨m, respPayload s.respVal, ?_, hexec, hlen, ?_⟩
  · rw [hval, hheld]
    rfl
  · rw [← frame_eq]
    exact hstored

/-! ### DECODE_RESPONSE -/

/-- The digit checks pass exactly when each field is digits. -/
theorem digitFailure_eq_none {p : List Byte} {fs : List (Nat × Nat)} :
    digitFailure p fs = none ↔ ∀ x ∈ fs, digitsOk (slice p x.1 x.2) = true := by
  induction fs with
  | nil => simp [digitFailure]
  | cons x fs ih =>
    rw [List.forall_mem_cons, ← ih, ← firstNonDigit_eq_none _ x.1, digitFailure]
    split <;> simp_all

/-- dec_resp answers the fields of a good frame of a known layout (R130). -/
theorem decResp_eq_ok {p : List Byte} {a b c : Byte} {l : RespLayout}
    (hsum : (p ++ [b]).foldl (· ^^^ ·) 0 = c) (hl : respLayout p.length = some l)
    (hd : ∀ x ∈ respDigitFields l, digitsOk (slice p x.1 x.2) = true) :
    decResp (a :: (p ++ [b, c])) = .ok (respOfPayload l p) := by
  have hlen : (a :: (p ++ [b, c])).length - 3 = p.length := by simp
  simp only [decResp, lrcOk_parts, hsum, beq_self_eq_true, hlen, hl, strip_cons,
    digitFailure_eq_none.mpr hd]
  rfl

/-- DECODE_RESPONSE of a written input that can be decoded (R131). -/
theorem exec_decodeResponse_ok {s : State} {f : List Byte} {v : RespVal}
    (hbusy : s.status.busy = false) (hf : s.inputIs f) (h : decResp f = .ok v) :
    exec .decodeResponse s =
      .next { s.completed .ok .none 0 0 with
        resp := s.resp.store v
        status := { (s.completed .ok .none 0 0).status with respValid := true } } := by
  have hf' : s.accept.inputIs f := hf
  rw [exec_command rfl, State.command_idle hbusy]
  simp only [acceptStep, decodeResponseStep, State.input_of_inputIs hf', h,
    State.noteInput_of_inputIs hf']
  rw [State.finish_unsaved (by simp)]
  rfl

/-- The layout of a payload of 80 or of 25 bytes (R93, R94). -/
theorem respLayout_eq {n cur priv : Nat}
    (h : n = 80 ∧ cur = 67 ∧ priv = 70 ∨ n = 25 ∧ cur = 12 ∧ priv = 15) :
    respLayout n = some
      { currency := (cur, cur + 3), priv := (priv, priv + 10), full := decide (n = 80) } := by
  rcases h with ⟨rfl, rfl, rfl⟩ | ⟨rfl, rfl, rfl⟩ <;> rfl

/-- A Response stored fills every register ENCODE_RESPONSE reads, where its report is empty or whole. -/
theorem RespBlock.written_store (r : RespBlock) {v : RespVal}
    (h : v.report = [] ∨ v.report.length = Config.reportLen) : (r.store v).written = true := by
  obtain ⟨hpos, hresult, hamount, hmode, hlen, hcur, hpriv⟩ := r.held_store v
  refine (RespBlock.written_iff _).mpr ⟨hpos, hresult, hamount, hmode, hlen, hcur, hpriv, ?_⟩
  rcases h with h | h
  · simp [RespBlock.store, h, Slot.of]
  · simp [RespBlock.store, h]

theorem slice_eq_singleton {p : List Byte} {k : Nat} (h : k < p.length) :
    slice p k (k + 1) = [at_ p k] := by
  simp [slice, at_, List.take_one, h]

theorem some_at_ {p : List Byte} {k : Nat} (h : k < p.length) : some (at_ p k) = p[k]? := by
  simp [at_, h]

/-- Settles O23: dec_resp answers the layout's fields, and each register stores its field without loss. -/
theorem decodeResponseWritesTheBlock : Obligations.DecodeResponseWritesTheBlock := by
  intro s p a b c cur priv hbusy hf hsum hlayout hpos hresult hamount hcur
  have hdec := decResp_eq_ok (a := a) hsum (respLayout_eq hlayout) (by simp [respDigitFields, *])
  have hlen : priv + 10 ≤ p.length ∧ cur + 3 ≤ p.length ∧ 12 ≤ p.length := by omega
  have hdigit : isDigit (at_ p 2) = true := by
    simpa [slice_eq_singleton (show 2 < p.length by omega), digitsOk] using hresult
  have hresultFits : (BitVec.ofNat 4 (digitValue (at_ p 2))).toNat = digitValue (at_ p 2) :=
    Nat.mod_eq_of_lt ((digitValue_lt hdigit).trans (by decide))
  have hamountFits :
      (BitVec.ofNat 27 (parseDec (slice p 3 11))).toNat = parseDec (slice p 3 11) := by
    have h8 : (slice p 3 11).length = 8 := by rw [slice_length]; omega
    have hlt := parseDec_lt hamount
    rw [h8] at hlt
    exact Nat.mod_eq_of_lt (hlt.trans (by decide))
  refine ⟨_, exec_decodeResponse_ok hbusy hf hdec, RespBlock.written_store _ ?_,
    ByteReg.values_ofBytes ?_, ?_, hamountFits, some_at_ (by omega), ByteReg.values_ofBytes ?_,
    ByteReg.values_ofBytes ?_, fun h80 => ?_, fun h25 => ?_⟩
  · by_cases h80 : p.length = 80 <;> simp [respOfPayload, h80]
  · simp only [respOfPayload, slice_length]
    omega
  · calc some (BitVec.ofNat 8 (0x30 + (BitVec.ofNat 4 (digitValue (at_ p 2))).toNat))
        = some (at_ p 2) := by rw [hresultFits, ofNat_digitValue hdigit]
      _ = p[2]? := some_at_ (by omega)
  · simp only [respOfPayload, slice_length]
    omega
  · simp only [respOfPayload, slice_length]
    omega
  · have hreport : (slice p 12 67).length = 55 := by simp [h80]
    simp only [RespBlock.store, respOfPayload, h80, decide_true, if_true, hreport]
    exact ⟨rfl, ByteReg.values_ofBytes hreport⟩
  · simp only [RespBlock.store, respOfPayload, h25]
    exact ⟨rfl, rfl⟩

end Sys2Proof.Machine

/-! PROOFS. The statements about the checksum: what LRC and LRC_CHECK answer, which changes of a frame its checksum detects, and the commands that read something unwritten. -/

namespace Sys2Proof.Machine

/-! ### The XOR fold -/

/-- R112: the fold does not depend on the order of the bytes. -/
theorem xorFold_perm {f g : List Byte} (h : f.Perm g) : xorFold f = xorFold g := by
  induction h with
  | nil => rfl
  | cons b _ ih => exact congrArg (b ^^^ ·) ih
  | swap b c s =>
    calc c ^^^ (b ^^^ xorFold s)
        = (b ^^^ c) ^^^ xorFold s := by rw [← BitVec.xor_assoc, BitVec.xor_comm c b]
      _ = b ^^^ (c ^^^ xorFold s) := BitVec.xor_assoc ..
  | trans _ _ ih₁ ih₂ => exact ih₁.trans ih₂

theorem lrc_of_ne_nil {f : List Byte} (h : f ≠ []) : lrc f = some (xorFold f) := if_neg h

/-- Settles O14: the accumulator is the left fold, and the fold is the same for every order. -/
theorem accumulatorComputesTheFold : Obligations.AccumulatorComputesTheFold := by
  refine ⟨fun f hne => ?_, fun f g => xorFold_perm⟩
  rw [lrc_of_ne_nil hne, xorFold_eq_foldl]

/-- Flipping bits of one byte flips the same bits of the fold. -/
theorem xorFold_modify {f : List Byte} {k : Nat} (d : Byte) (h : k < f.length) :
    xorFold (f.modify k (· ^^^ d)) = xorFold f ^^^ d := by
  induction f generalizing k with
  | nil => simp at h
  | cons b f ih =>
    cases k with
    | zero =>
      calc (b ^^^ d) ^^^ xorFold f
          = b ^^^ (xorFold f ^^^ d) := by rw [BitVec.xor_assoc, BitVec.xor_comm d]
        _ = (b ^^^ xorFold f) ^^^ d := (BitVec.xor_assoc ..).symm
    | succ k =>
      rw [List.modify_succ_cons, xorFold, ih (Nat.lt_of_succ_lt_succ h), xorFold, BitVec.xor_assoc]

/-! ### What the checksum of a frame detects -/

/-- R111: a frame of three bytes or more checks exactly when all its bytes but byte 0 fold to 0, for its last byte is the fold of those between. -/
theorem lrcOk_iff (f : List Byte) : lrcOk f = true ↔ 3 ≤ f.length ∧ xorFold f.tail = 0 := by
  by_cases hlen : f.length < 3
  · simp [lrcOk_short f hlen, Nat.not_le.mpr hlen]
  · obtain ⟨a, r, rfl⟩ : ∃ a r, f = a :: r := List.exists_cons_of_length_pos (by omega)
    obtain ⟨p, c, rfl⟩ : ∃ p c, r = p ++ [c] :=
      ⟨_, _, (List.dropLast_append_getLast (l := r) (by rintro rfl; simp at hlen)).symm⟩
    have hp : p ≠ [] := by rintro rfl; simp at hlen
    have hsum : xorFold (p ++ [c]) = xorFold p ^^^ c := by simp [xorFold_append, xorFold]
    rw [lrcOk_cons a p c hp, List.tail_cons, hsum, beq_iff_eq, and_iff_right (Nat.not_lt.mp hlen)]
    exact BitVec.xor_eq_zero_iff.symm

theorem tail_modify_of_pos (f : List Byte) {k : Nat} (g : Byte → Byte) (h : 1 ≤ k) :
    (f.modify k g).tail = f.tail.modify (k - 1) g := by
  obtain ⟨k, rfl⟩ := Nat.exists_eq_add_of_le' h
  cases f with
  | nil => simp
  | cons b f => rfl

/-- Byte 0 is outside the checked range (R113). -/
theorem lrcOk_set_zero (f : List Byte) (b : Byte) : lrcOk (f.set 0 b) = lrcOk f := by
  have htail : (f.set 0 b).tail = f.tail := by cases f <;> rfl
  rw [Bool.eq_iff_iff, lrcOk_iff, lrcOk_iff, htail, List.length_set]

section BitFlips

variable {f : List Byte} (hok : lrcOk f = true)
include hok

/-- R113: flipping bits of one byte other than byte 0 makes the check fail. -/
theorem lrcOk_modify_eq_false {k : Nat} {d : Byte} (hd : d ≠ 0) (hpos : 1 ≤ k)
    (hlt : k < f.length) : lrcOk (f.modify k (· ^^^ d)) = false := by
  obtain ⟨-, hzero⟩ := (lrcOk_iff f).mp hok
  have hsum : xorFold (f.modify k (· ^^^ d)).tail = d := by
    rw [tail_modify_of_pos _ _ hpos, xorFold_modify d (by rw [List.length_tail]; omega), hzero]
    exact BitVec.zero_xor
  rw [Bool.eq_false_iff, Ne, lrcOk_iff, hsum]
  exact fun h => hd h.2

/-- R113: the same bits flipped in two bytes of the range cancel out. -/
theorem lrcOk_modify_modify {k l : Nat} (d : Byte) (hk : 1 ≤ k) (hkl : k < l)
    (hl : l < f.length) : lrcOk ((f.modify k (· ^^^ d)).modify l (· ^^^ d)) = true := by
  obtain ⟨hlen, hzero⟩ := (lrcOk_iff f).mp hok
  rw [lrcOk_iff, tail_modify_of_pos _ _ (by omega), tail_modify_of_pos _ _ hk,
    xorFold_modify d (by simp; omega), xorFold_modify d (by simp; omega), hzero]
  simpa using hlen

end BitFlips

/-- Settles O13: a flip outside byte 0 shows in the fold that must be 0; two equal flips cancel. -/
theorem checksumDetectsSingleBitFlips : Obligations.ChecksumDetectsSingleBitFlips := by
  intro f j hj hok
  have hbit : BitVec.twoPow 8 j ≠ 0 := fun h => by
    simpa [hj] using congrArg (·.getLsbD j) h
  refine ⟨fun k hpos hlt => lrcOk_modify_eq_false hok hbit hpos hlt,
    fun k l hk hkl hl => lrcOk_modify_modify hok _ hk hkl (by omega), lrcOk_set_zero⟩

/-! ### A command from its acceptance on -/

/-- A command written with BUSY = 0 answers its accept step in the accepted state (R206). -/
theorem exec_idle {i : Instr} {s : State} (hi : i.isCommand = true)
    (hbusy : s.status.busy = false) : exec i s = .next (acceptStep i s.accept) := by
  rw [exec_command hi, State.command_idle hbusy]

/-- Recording a read and accepting a command touch different fields. -/
@[simp] theorem State.noteRead_accept (s : State) (w : Bool) :
    s.accept.noteRead w = (s.noteRead w).accept := by
  cases w <;> rfl

@[simp] theorem State.noteInput_accept (s : State) : s.accept.noteInput = s.noteInput.accept :=
  s.noteRead_accept _

@[simp] theorem State.input_accept (s : State) : s.accept.input = s.input := rfl

/-- One unwritten byte in `BUF[0:BUF_LEN]` makes its read a recorded one (R43, R216). -/
theorem State.noteInput_unwritten {s : State}
    (h : ∃ k, k < s.bufLen.toNat ∧ s.buf.read k = none) : s.noteInput = s.faulted := by
  obtain ⟨k, hk, hnone⟩ := h
  rw [State.noteInput, State.bufWritten_eq_false hk hnone, State.noteRead_false]

theorem State.input_length (s : State) : s.input.length = s.bufLen.toNat := s.bufBytes_length _

/-! ### What the checksum commands answer -/

/-- LRC over a non-empty input, written or not (R112). -/
theorem exec_lrc_nonempty {s : State} (hbusy : s.status.busy = false) (hne : s.input ≠ []) :
    exec .lrc s =
      .next { s.noteInput.completed .ok .none 0 0 with lrcValue := xorFold s.input } := by
  rw [exec_idle rfl hbusy]
  simp only [acceptStep, lrcStep, State.input_accept, lrc_of_ne_nil hne,
    State.noteInput_accept]
  rfl

/-- LRC over an empty input (R112). -/
theorem exec_lrc_empty {s : State} (hbusy : s.status.busy = false) (hnil : s.input = []) :
    exec .lrc s = .next { s.completed .error .emptyInput 0 0 with lrcValue := 0x00 } := by
  rw [exec_idle rfl hbusy]
  simp only [acceptStep, lrcStep, State.input_accept, hnil]
  rfl

/-- Settles O11: by whether the input is empty, and whether it is all written. -/
theorem lrcStoresTheXorOfItsInput : Obligations.LrcStoresTheXorOfItsInput := by
  refine ⟨fun s f hbusy hf hne => ?_, fun s hbusy hlen => ?_, fun s hbusy hunw => ?_⟩
  · have hin : s.input = f := State.input_of_inputIs hf
    rw [exec_lrc_nonempty hbusy (hin ▸ hne), hin, State.noteInput_of_inputIs hf, xorFold_eq_foldl]
  · exact exec_lrc_empty hbusy (List.eq_nil_of_length_eq_zero (by rw [s.input_length, hlen]; rfl))
  · have hne : s.input ≠ [] := by
      obtain ⟨k, hk, -⟩ := hunw
      rw [← List.length_pos_iff, s.input_length]
      omega
    exact ⟨_, State.noteInput_unwritten hunw ▸ exec_lrc_nonempty hbusy hne⟩

/-- The detail bytes of LRC_CHECK: both checksums where a frame of three bytes or more does not check (R114). -/
def checkDetail (f : List Byte) : Byte × Byte :=
  if lrcOk f = false ∧ 3 ≤ f.length then (lrcComputed f, lrcReceived f) else (0, 0)

theorem checkDetail_ok {f : List Byte} (h : lrcOk f = true) : checkDetail f = (0, 0) := by
  simp [checkDetail, h]

theorem checkDetail_short {f : List Byte} (h : f.length < 3) : checkDetail f = (0, 0) := by
  simp [checkDetail, Nat.not_le.mpr h]

theorem checkDetail_mismatch {f : List Byte} (h : lrcOk f = false) (hlen : 3 ≤ f.length) :
    checkDetail f = (lrcComputed f, lrcReceived f) := if_pos ⟨h, hlen⟩

/-- LRC_CHECK of any input, written or not (R114). -/
theorem exec_lrcCheck {s : State} (hbusy : s.status.busy = false) :
    exec .lrcCheck s =
      .next { s.noteInput.completed .ok .none (checkDetail s.input).1 (checkDetail s.input).2 with
        status := { (s.noteInput.completed .ok .none 0 0).status with check := lrcOk s.input } } := by
  rw [exec_idle rfl hbusy]
  simp only [acceptStep, lrcCheckStep, State.input_accept,
    State.noteInput_accept]
  cases hok : lrcOk s.input with
  | true => rw [checkDetail_ok hok]; rfl
  | false =>
    by_cases hlen : 3 ≤ s.input.length
    · rw [checkDetail_mismatch hok hlen, if_pos hlen]; rfl
    · rw [checkDetail_short (Nat.not_le.mp hlen), if_neg hlen]; rfl

/-- Settles O12: a frame of three bytes or more is taken apart into its first byte, the checked range and its last byte. -/
theorem lrcCheckReportsTheCheck : Obligations.LrcCheckReportsTheCheck := by
  intro s f hbusy hf
  have hexec := exec_lrcCheck hbusy
  rw [State.input_of_inputIs hf, State.noteInput_of_inputIs hf] at hexec
  refine ⟨fun p a c hparts hne => ?_, fun hlen => ?_⟩
  · subst hparts
    have hlrc : lrcOk (a :: (p ++ [c])) = (p.foldl (· ^^^ ·) 0 == c) := by
      rw [lrcOk_cons a p c hne, xorFold_eq_foldl]
    refine ⟨fun heq => ?_, fun hneq => ?_⟩
    · have hok : lrcOk (a :: (p ++ [c])) = true := by rw [hlrc, heq, beq_self_eq_true]
      rw [hexec, checkDetail_ok hok, hok]
    · have hbad : lrcOk (a :: (p ++ [c])) = false := hlrc.trans (beq_false_of_ne hneq)
      have hlen : 3 ≤ (a :: (p ++ [c])).length := by
        have := List.length_pos_iff.mpr hne
        simp
        omega
      rw [hexec, checkDetail_mismatch hbad hlen, hbad, lrcComputed_cons, lrcReceived_cons,
        xorFold_eq_foldl]
      rfl
  · rw [hexec, checkDetail_short hlen, lrcOk_short f hlen]
    rfl

/-! ### What the Response functions answer -/

theorem respLayout_eq_some {n : Nat} {l : RespLayout} (h : respLayout n = some l) :
    n = Config.respFullLen ∧ l.full = true ∨ n = Config.respLimitedLen ∧ l.full = false := by
  unfold respLayout at h
  split at h
  · cases h
    exact .inl ⟨‹_›, rfl⟩
  · split at h
    · cases h
      exact .inr ⟨‹_›, rfl⟩
    · cases h

/-- What dec_resp answers are the fields of a layout (R130). -/
theorem decResp_ok_layout {f : List Byte} {v : RespVal} (h : decResp f = .ok v) :
    ∃ l, respLayout (f.length - 3) = some l ∧ v = respOfPayload l (strip f) := by
  unfold decResp at h
  split at h
  · cases h
  · split at h
    · cases h
    · next l hl =>
      split at h
      · cases h
      · cases h
        exact ⟨l, hl, rfl⟩

/-- A Response that dec_resp answers has no report or a whole one. -/
theorem decResp_ok_report {f : List Byte} {v : RespVal} (h : decResp f = .ok v) :
    v.report = [] ∨ v.report.length = Config.reportLen := by
  obtain ⟨l, hl, rfl⟩ := decResp_ok_layout h
  rcases respLayout_eq_some hl with ⟨hlen, hfull⟩ | ⟨-, hlimited⟩
  · right
    simp only [respOfPayload, hfull, if_true, strip, slice_length, Config.respFullLen,
      Config.reportLen] at hlen ⊢
    omega
  · exact .inl (by simp [respOfPayload, hlimited])

/-- What enc_resp answers passed its check of RESP_REPORT_LEN and is the frame of the payload (R134). -/
theorem encResp_ok_frame {l : Nat} {v : RespVal} {f : List Byte} (h : encResp l v = .ok f) :
    (l = Config.reportLen ∨ l = 0) ∧ f = frame (respPayload v) := by
  unfold encResp at h
  split at h
  · cases h
  · split at h
    · cases h
    · split at h
      · cases h
      · cases h
        exact ⟨by omega, rfl⟩

theorem respPayload_length (s : State) :
    (respPayload s.respVal).length = 25 + s.respVal.report.length := by
  have hpos : s.respVal.pos.length = 2 := State.bytesAt_length ..
  have hcur : s.respVal.currency.length = 3 := State.bytesAt_length ..
  have hpriv : s.respVal.priv.length = 10 := State.bytesAt_length ..
  simp only [respPayload, List.length_append, List.length_singleton, decDigits_length,
    Config.amountDigits, hpos, hcur, hpriv]
  omega

/-- The frame enc_resp builds from the RESP block is a limited or a full one. -/
theorem encResp_ok_length {s : State} {f : List Byte}
    (h : encResp s.respReportLen.toNat s.respVal = .ok f) : f.length = 28 ∨ f.length = 83 := by
  obtain ⟨hlen, rfl⟩ := encResp_ok_frame h
  rw [frame_length, respPayload_length]
  rcases hlen with hlen | hlen
  · exact .inr (by simp [State.respVal, hlen])
  · exact .inl (by simp [State.respVal, hlen])

/-! ### Where the other commands end, whether or not what they read is written -/

section Ends

variable {s : State} (hbusy : s.status.busy = false)
include hbusy

theorem exec_decodeAsk_of_ok {a : AskVal} (h : decAsk s.input = .ok a) : exec .decodeAsk s =
    .next { s.noteInput.completed .ok .none 0 0 with ask := AskBlock.ofVal a } := by
  rw [exec_idle rfl hbusy]
  simp only [acceptStep, decodeAskStep, State.input_accept, h, State.noteInput_accept]
  rfl

theorem exec_decodeAsk_of_error {e : Failure} (h : decAsk s.input = .error e) :
    exec .decodeAsk s = .next (s.noteInput.completed .error e.code e.info0 e.info1) := by
  rw [exec_idle rfl hbusy]
  simp only [acceptStep, decodeAskStep, State.input_accept, h, State.noteInput_accept,
    State.raise_accept]

/-- DECODE_ASK writes the ASK block only where it ends OK (R127, R128). -/
theorem exec_decodeAsk_cases :
    ∃ o c i0 i1 k, exec .decodeAsk s = .next { s.noteInput.completed o c i0 i1 with ask := k } ∧
      (o = .ok ∧ c = .none ∧ k.written = true ∨
        o = .error ∧ k = s.ask ∧
          c ∈ [ErrCode.checksumMismatch, .lengthMismatch, .fieldFormatError]) := by
  cases h : decAsk s.input with
  | ok a =>
    exact ⟨_, _, _, _, _, exec_decodeAsk_of_ok hbusy h, .inl ⟨rfl, rfl, AskBlock.written_ofVal a⟩⟩
  | error e =>
    exact ⟨_, _, _, _, s.noteInput.ask, exec_decodeAsk_of_error hbusy h,
      .inr ⟨rfl, by simp [State.noteInput], by simpa using decAsk_error h⟩⟩

theorem exec_decodeResponse_of_ok {v : RespVal} (h : decResp s.input = .ok v) :
    exec .decodeResponse s =
      .next { s.noteInput.completed .ok .none 0 0 with
        resp := s.noteInput.resp.store v
        status := { (s.noteInput.completed .ok .none 0 0).status with respValid := true } } := by
  rw [exec_idle rfl hbusy]
  simp only [acceptStep, decodeResponseStep, State.input_accept, h, State.noteInput_accept]
  rfl

theorem exec_decodeResponse_of_error {e : Failure} (h : decResp s.input = .error e) :
    exec .decodeResponse s = .next (s.noteInput.completed .error e.code e.info0 e.info1) := by
  rw [exec_idle rfl hbusy]
  simp only [acceptStep, decodeResponseStep, State.input_accept, h, State.noteInput_accept,
    State.raise_accept]

/-- DECODE_RESPONSE writes the RESP block, and sets RESP_VALID, only where it ends OK (R131). -/
theorem exec_decodeResponse_cases :
    ∃ o c i0 i1 r b, exec .decodeResponse s =
        .next { s.noteInput.completed o c i0 i1 with
          resp := r,
          status := { (s.noteInput.completed o c i0 i1).status with respValid := b } } ∧
      (o = .ok ∧ c = .none ∧ r.written = true ∧ b = true ∨
        o = .error ∧ r = s.resp ∧ b = false ∧
          c ∈ [ErrCode.checksumMismatch, .lengthMismatch, .fieldFormatError]) := by
  cases h : decResp s.input with
  | ok v =>
    exact ⟨_, _, _, _, _, _, exec_decodeResponse_of_ok hbusy h,
      .inl ⟨rfl, rfl, RespBlock.written_store _ (decResp_ok_report h), rfl⟩⟩
  | error e =>
    exact ⟨_, _, _, _, s.noteInput.resp, false, exec_decodeResponse_of_error hbusy h,
      .inr ⟨rfl, by simp [State.noteInput], rfl, by simpa using decResp_error h⟩⟩

theorem exec_encodeResponse_of_ok {f : List Byte}
    (h : encResp s.respReportLen.toNat s.respVal = .ok f) :
    ∃ m : Memory, s.buf.storedFrame m f ∧ exec .encodeResponse s =
      .next { (s.noteRead s.respReadsWritten).completed .ok .none 0 0 with
        buf := m, bufLen := BitVec.ofNat 16 f.length } := by
  obtain ⟨m, hm, hfin⟩ := (s.noteRead s.respReadsWritten).putFrame_accept_finish f
  refine ⟨m, by simpa using hm, ?_⟩
  rw [exec_idle rfl hbusy, ← hfin]
  simp only [acceptStep, encodeResponseStep, State.respReportLen_accept, State.respVal_accept, h,
    State.respReadsWritten_accept, State.noteRead_accept]

theorem exec_encodeResponse_of_error {e : Failure}
    (h : encResp s.respReportLen.toNat s.respVal = .error e) :
    exec .encodeResponse s =
      .next ((s.noteRead s.respReadsWritten).completed .error e.code e.info0 e.info1) := by
  rw [exec_idle rfl hbusy]
  simp only [acceptStep, encodeResponseStep, State.respReportLen_accept, State.respVal_accept, h,
    State.respReadsWritten_accept, State.noteRead_accept, State.raise_accept]

/-- ENCODE_RESPONSE writes BUF and BUF_LEN only where it ends OK (R135, R138). -/
theorem exec_encodeResponse_cases :
    ∃ (o : CmdOutcome) (c : ErrCode) (i0 i1 : Byte) (m : Memory) (l : BitVec 16),
      exec .encodeResponse s = .next { (s.noteRead s.respReadsWritten).completed o c i0 i1 with
        buf := m, bufLen := l } ∧
      (o = .ok ∧ c = .none ∧ (l = 28 ∨ l = 83) ∧
          (∀ k, l.toNat ≤ k → m.read k = s.buf.read k) ∨
        o = .error ∧ m = s.buf ∧ l = s.bufLen ∧
          c ∈ [ErrCode.lengthMismatch, .fieldFormatError, .amountOutOfRange]) := by
  cases h : encResp s.respReportLen.toNat s.respVal with
  | ok f =>
    obtain ⟨m, ⟨-, hrest⟩, hexec⟩ := exec_encodeResponse_of_ok hbusy h
    have hlen := encResp_ok_length h
    have hfits : (BitVec.ofNat 16 f.length).toNat = f.length := Nat.mod_eq_of_lt (by omega)
    refine ⟨_, _, _, _, m, _, hexec, .inl ⟨rfl, rfl, ?_, fun k hk => hrest k (hfits ▸ hk)⟩⟩
    rcases hlen with h28 | h83
    · exact .inl (by rw [h28]; rfl)
    · exact .inr (by rw [h83]; rfl)
  | error e =>
    exact ⟨_, _, _, _, (s.noteRead s.respReadsWritten).buf, (s.noteRead s.respReadsWritten).bufLen,
      exec_encodeResponse_of_error hbusy h,
      .inr ⟨rfl, by simp, by simp, by simpa using encResp_error h⟩⟩

/-- SEND with an amount out of range ends in the step that accepts it (R151). -/
theorem exec_send_of_error {e : Failure} (h : encAsk s.askVal = .error e) : exec .send s =
    .next ((s.noteRead s.sendReadsWritten).completed .error .amountOutOfRange 0 0) := by
  have hreads : s.accept.sendReadsWritten = s.sendReadsWritten := rfl
  rw [exec_idle rfl hbusy]
  simp only [acceptStep, sendStep, State.askVal_accept, h, hreads, State.noteRead_accept,
    State.raise_accept, encAsk_error_amount h]
  rfl

/-- SEND opens its conversation with the frame in BUF and the timeout saved (R151). -/
theorem exec_send_of_ok {f : List Byte} (h : encAsk s.askVal = .ok f) :
    ∃ m : Memory, s.buf.storedFrame m f ∧ exec .send s =
      .next { (s.noteRead s.sendReadsWritten).begun with
        buf := m, bufLen := 37, savedTimeout := Slot.of s.tTimeout, toSaved := true,
        tTimeout := s.timeoutAt Reg.timeoutArg.number s.timeoutArg,
        txLog := s.txLog ++ [0x05], engine := .sAwaitAck } := by
  have hreads : s.accept.sendReadsWritten = s.sendReadsWritten := rfl
  refine ⟨_, Memory.storedFrame_writeAll s.buf f, ?_⟩
  rw [exec_idle rfl hbusy]
  simp only [acceptStep, sendStep, State.askVal_accept, h, hreads, State.putFrame, encAsk_length h]
  cases s.sendReadsWritten <;> rfl

/-- RECEIVE opens its conversation with the timeout saved (R171). -/
theorem exec_receive_eq : exec .receive s =
    .next { (s.noteRead s.timeoutArg.written).begun with
      bufLen := 0, savedTimeout := Slot.of s.tTimeout, toSaved := true,
      tTimeout := s.timeoutAt Reg.timeoutArg.number s.timeoutArg,
      eotOk := false, eotGot := false, eotByte := 0, rxCount := 0, engine := .rAwaitEnq } := by
  rw [exec_idle rfl hbusy]
  simp only [acceptStep, receiveStep, State.accept_fields]
  cases s.timeoutArg.written <;> rfl

end Ends

/-! ### Commands that read something unwritten -/

/-- ENCODE_RESPONSE's checks come to read a register that is unwritten: each check reads its register only where the checks before it passed (R134, R135, log 24). -/
def RespBlock.ReadsUnwritten (r : RespBlock) : Prop :=
  r.reportLen.written = false ∨
    (r.reportLen = Slot.of 0 ∨ r.reportLen = Slot.of 55) ∧
    (r.result.written = false ∨ r.result.val.toNat ≤ 9 ∧
      (r.amount.written = false ∨ r.amount.val.toNat ≤ 99999999 ∧
        (r.pos.written = false ∨ r.paymentMode.written = false ∨ r.currency.written = false ∨
          r.priv.written = false ∨ r.reportLen = Slot.of 55 ∧ r.report.written = false)))

/-- One check: its register is unwritten, or holds a value within the bound and what is read after the check is not all written. -/
theorem State.boundCheck_eq_false (s : State) {w : Nat} {x : Slot (BitVec w)} (r i bound : Nat)
    {rest : Bool} (h : x.written = false ∨ x.val.toNat ≤ bound ∧ rest = false) :
    (x.written && (decide (bound < (s.bitsAt r i x).toNat) || rest)) = false := by
  cases hx : x.written with
  | false => rfl
  | true =>
    obtain ⟨hle, hrest⟩ := h.resolve_left (by simp [hx])
    simp [s.bitsAt_written r i hx, hrest, hle]

theorem State.respReadsWritten_eq_false {s : State} (h : s.resp.ReadsUnwritten) :
    s.respReadsWritten = false := by
  unfold State.respReadsWritten
  rw [Bool.and_eq_false_iff]
  refine h.imp_right fun ⟨hlen, h⟩ => Bool.or_eq_false_iff.mpr ⟨?_, ?_⟩
  · rcases hlen with hlen | hlen <;> simp [State.respReportLen, hlen, Config.reportLen]
  · refine s.boundCheck_eq_false _ _ _ (h.imp_right fun ⟨hresult, h⟩ => ⟨hresult, ?_⟩)
    refine s.boundCheck_eq_false _ _ _ (h.imp_right fun ⟨hamount, h⟩ => ⟨hamount, ?_⟩)
    rcases h with h | h | h | h | ⟨hfull, h⟩
    · simp [h]
    · simp [h]
    · simp [h]
    · simp [h]
    · simp [State.respReportLen, hfull, h, Config.reportLen]

/-- Settles O60: each command's cases, with the read recorded. -/
theorem unwrittenInputsAreRecordedAndTheCommandGoesOn :
    Obligations.UnwrittenInputsAreRecordedAndTheCommandGoesOn := by
  intro s hbusy
  refine ⟨fun hunw => ?_, fun hunw => ?_, fun hunw => ?_, fun hunw => ?_⟩
  · have hnote : s.noteInput = s.faulted := State.noteInput_unwritten hunw
    rw [← hnote]
    refine ⟨⟨_, _, _, exec_lrcCheck hbusy, fun hok => ?_, fun hlen => ?_⟩,
      exec_decodeAsk_cases hbusy, exec_decodeResponse_cases hbusy⟩
    · simp [checkDetail_ok hok]
    · have hlen : s.input.length < 3 := s.input_length.trans_lt hlen
      simp [checkDetail_short hlen, lrcOk_short _ hlen]
  · have hnote : s.noteRead s.respReadsWritten = s.faulted := by
      rw [State.respReadsWritten_eq_false hunw, State.noteRead_false]
    rw [← hnote]
    exact exec_encodeResponse_cases hbusy
  · have hnote : s.noteRead s.sendReadsWritten = s.faulted := by
      rw [State.sendReadsWritten, Bool.and_eq_false_iff.mpr hunw, State.noteRead_false]
    rw [← hnote]
    cases h : encAsk s.askVal with
    | error e => exact .inl (exec_send_of_error hbusy h)
    | ok f =>
      obtain ⟨m, hm, hexec⟩ := exec_send_of_ok hbusy h
      exact .inr ⟨f, m, _, hexec, encAsk_length h, hm, s.timeoutAt_written _, fun _ => rfl⟩
  · have hnote : s.noteRead s.timeoutArg.written = s.faulted := by
      rw [hunw, State.noteRead_false]
    rw [← hnote]
    exact ⟨_, exec_receive_eq hbusy⟩

end Sys2Proof.Machine

/-! PROOFS. The statements about the codec: amounts in cents, the errors of the codec commands in their order, and that each encoding decodes to what was encoded. -/

namespace Sys2Proof.Machine

/-! ### Amounts in cents -/

theorem centsInRange_eq_ok {n c : Nat} :
    centsInRange n = .ok c ↔ c = n ∧ 1 ≤ c ∧ c ≤ 9999999 := by
  simp only [centsInRange, Config.amountMinCents, Config.amountMaxCents]
  split
  · simp only [reduceCtorEq, false_iff]
    omega
  · simp only [Except.ok.injEq]
    omega

/-- amount_cents answers the amount in cents, where it is a whole number of them and within the bounds (R122). -/
theorem amountCents_eq_ok {m s c : Nat} :
    amountCents m s = .ok c ↔ c * 10 ^ s = m * 100 ∧ 1 ≤ c ∧ c ≤ 9999999 := by
  unfold amountCents
  split
  case isTrue hs =>
    have hscale : c = m * 10 ^ (2 - s) ↔ c * 10 ^ s = m * 100 := by
      interval_cases s <;> omega
    rw [centsInRange_eq_ok, hscale]
  case isFalse hs =>
    obtain ⟨d, rfl⟩ : ∃ d, s = d + 2 := ⟨s - 2, by omega⟩
    have hscale : c * 10 ^ (d + 2) = m * 100 ↔ c * 10 ^ d = m := by
      rw [pow_add, ← Nat.mul_assoc]
      omega
    rw [hscale, Nat.add_sub_cancel]
    split
    case isTrue hfraction =>
      simp only [reduceCtorEq, false_iff]
      rintro ⟨rfl, -⟩
      exact hfraction (Nat.mul_mod_left c _)
    case isFalse hwhole =>
      have hdvd : 10 ^ d ∣ m := Nat.dvd_of_mod_eq_zero (not_not.mp hwhole)
      rw [centsInRange_eq_ok, Nat.eq_div_iff_mul_eq_left (by positivity) hdvd, eq_comm (a := m)]

/-- Settles O16: with at most two fractional digits the amount is scaled up, with more it is scaled down where nothing is lost. -/
theorem amountInCentsIsExact : Obligations.AmountInCentsIsExact :=
  fun _ _ => ⟨fun _ => amountCents_eq_ok, fun _ => amountCents_error⟩

/-! ### A good frame decoded -/

/-- dec_ask answers the fields of a good frame of 37 bytes (R126). -/
theorem decAsk_eq_ok {p : List Byte} {a b c : Byte} (hsum : (p ++ [b]).foldl (· ^^^ ·) 0 = c)
    (hlen : p.length = 34) (hd : ∀ x ∈ askDigitFields, digitsOk (slice p x.1 x.2) = true) :
    decAsk (a :: (p ++ [b, c])) = .ok (askOfPayload p) := by
  have hpayload : (a :: (p ++ [b, c])).length - 3 = 34 := by simp [hlen]
  simp only [decAsk, lrcOk_parts, hsum, beq_self_eq_true, hpayload, strip_cons,
    digitFailure_eq_none.mpr hd]
  rfl

/-- DECODE_ASK of a written input that can be decoded (R127, R128). -/
theorem exec_decodeAsk_ok {s : State} {f : List Byte} {v : AskVal}
    (hbusy : s.status.busy = false) (hf : s.inputIs f) (h : decAsk f = .ok v) :
    exec .decodeAsk s = .next { s.completed .ok .none 0 0 with ask := AskBlock.ofVal v } := by
  rw [exec_decodeAsk_of_ok hbusy (by rwa [State.input_of_inputIs hf]),
    State.noteInput_of_inputIs hf]

/-- Eight digits fit the 27 bits of RESP_AMOUNT and the 32 bits of ASK_AMT_MANT. -/
theorem toNat_ofNat_parseDec {f : List Byte} {w : Nat} (hw : 27 ≤ w) (hd : digitsOk f = true)
    (hlen : f.length = 8) : (BitVec.ofNat w (parseDec f)).toNat = parseDec f := by
  have hlt := parseDec_lt hd
  rw [hlen] at hlt
  exact Nat.mod_eq_of_lt (hlt.trans (lt_of_lt_of_le (by decide) (Nat.pow_le_pow_right two_pos hw)))

/-- Settles O20: each register of the block stores its field without loss. -/
theorem decodeAskWritesTheBlock : Obligations.DecodeAskWritesTheBlock := by
  intro s p a b c hbusy hf hlen hsum hpos hamount hcur
  have hdec := decAsk_eq_ok (a := a) hsum hlen (by simp [askDigitFields, *])
  refine ⟨_, exec_decodeAsk_ok hbusy hf hdec, AskBlock.written_ofVal _, ByteReg.values_ofBytes ?_,
    toNat_ofNat_parseDec (by decide) hamount ?_, rfl, some_at_ ?_, some_at_ ?_, some_at_ ?_,
    ByteReg.values_ofBytes ?_, ByteReg.values_ofBytes rfl, ByteReg.values_ofBytes ?_,
    ByteReg.values_ofBytes ?_⟩ <;>
  simp [askOfPayload, hlen]

/-! ### What is encoded decodes to itself -/

/-- A frame a command leaves in BUF is the input of the next command (R32, R62). -/
theorem State.inputIs_of_storedFrame {s : State} {m : Memory} {f : List Byte}
    (hstored : s.buf.storedFrame m f) (hfits : f.length < 2 ^ 16) :
    State.inputIs { s.completed .ok .none 0 0 with
      buf := m, bufLen := BitVec.ofNat 16 f.length } f :=
  ⟨Nat.mod_eq_of_lt hfits, hstored.1⟩

/-- An Ask's fields are found in its payload at the offsets of R92. -/
theorem askPayload_fields (s : State) (c : Nat) :
    slice (askPayload s.askVal c) 0 2 = s.askVal.pos ∧
    slice (askPayload s.askVal c) 2 10 = decDigits 8 c ∧
    at_ (askPayload s.askVal c) 10 = s.askVal.answerFlag ∧
    at_ (askPayload s.askVal c) 11 = s.askVal.paymentMode ∧
    at_ (askPayload s.askVal c) 12 = s.askVal.transactionType ∧
    slice (askPayload s.askVal c) 13 16 = s.askVal.currency ∧
    slice (askPayload s.askVal c) 26 30 = s.askVal.delay ∧
    slice (askPayload s.askVal c) 30 34 = s.askVal.auth := by
  have hpos : s.askVal.pos.length = 2 := State.bytesAt_length ..
  have hcur : s.askVal.currency.length = 3 := State.bytesAt_length ..
  have hpriv : s.askVal.priv.length = 10 := State.bytesAt_length ..
  have hdelay : s.askVal.delay.length = 4 := State.bytesAt_length ..
  have hauth : s.askVal.auth.length = 4 := State.bytesAt_length ..
  simp [askPayload, slice, at_, Config.amountDigits, List.drop_append, List.take_of_length_le,
    List.drop_eq_nil_of_le, hpos, hcur, hpriv, hdelay, hauth]

/-- Decoding an Ask's payload gives the Ask back, the amount held in cents and private blank (R126, R129). -/
theorem askOfPayload_askPayload {s : State} {c : Nat} (hc : c < 10 ^ 8) :
    askOfPayload (askPayload s.askVal c) =
      { s.askVal with
        mant := BitVec.ofNat 32 c, scale := 2, priv := rep Config.privateLen Config.blank } := by
  obtain ⟨hpos, hamount, hflag, hmode, htype, hcur, hdelay, hauth⟩ := askPayload_fields s c
  simp only [askOfPayload, hpos, hamount, hflag, hmode, htype, hcur, hdelay, hauth,
    parseDec_decDigits, Nat.mod_eq_of_lt hc]

theorem Slot.of_val {α : Type} {x : Slot α} (h : x.written = true) : Slot.of x.val = x := by
  rw [Slot.of, ← h]

/-- Writing the Ask a written ASK block holds changes nothing. -/
theorem State.ofVal_askVal {s : State} (hw : s.ask.written = true) :
    AskBlock.ofVal s.askVal = s.ask := by
  obtain ⟨hpos, hmant, hscale, hflag, hmode, htype, hcur, hpriv, hdelay, hauth⟩ :=
    (AskBlock.written_iff _).mp hw
  rw [s.askVal_written hw]
  simp only [AskBlock.ofVal, ByteReg.ofBytes_values, Slot.of_val, *]

/-- dec_ask of the frame of an Ask whose pos and currency are digits. -/
theorem decAsk_frame {s : State} {c : Nat} (hpos : digitsOk s.askVal.pos = true)
    (hcur : digitsOk s.askVal.currency = true) :
    decAsk (frame (askPayload s.askVal c)) = .ok (askOfPayload (askPayload s.askVal c)) := by
  obtain ⟨hpos', hamount, -, -, -, hcur', -, -⟩ := askPayload_fields s c
  rw [frame_eq, decAsk_eq_ok rfl (askPayload_length s c)]
  simp [askDigitFields, hpos', hamount, hcur', hpos, hcur, digitsOk_decDigits]

/-- Settles O22: the frame stored is the input of DECODE_ASK, and each register stores its field again. -/
theorem encodedAskDecodesToItself : Obligations.EncodedAskDecodesToItself := by
  rintro s hbusy ⟨hw, hposDigits, -, ⟨c, hc⟩, hcurDigits, hblank, -⟩
  have hval := s.askVal_written hw
  have hpriv : rep Config.privateLen Config.blank = s.askVal.priv := by rw [hval, hblank]
  obtain ⟨hscaled, hmin, hmax⟩ := amountCents_eq_ok.mp hc
  have henc : encAsk s.askVal = .ok (frame (askPayload s.askVal c)) :=
    encAsk_eq_ok (by rw [hval]; exact hc)
  obtain ⟨m, hstored, hexec⟩ := exec_encodeAsk_ok hbusy hw henc
  have hin := State.inputIs_of_storedFrame hstored (by simp [askPayload_length])
  have hdec := decAsk_frame (s := s) (c := c) (by rw [hval]; exact hposDigits)
    (by rw [hval]; exact hcurDigits)
  refine ⟨_, _, c, hexec, exec_decodeAsk_ok rfl hin hdec, rfl, hc, hscaled, ?_, ?_⟩
  · show AskBlock.ofVal (askOfPayload _) = _
    rw [askOfPayload_askPayload (by omega), hpriv, ← State.ofVal_askVal hw]
    rfl
  · show (AskBlock.ofVal (askOfPayload _)).mant.val.toNat = c
    rw [askOfPayload_askPayload (by omega)]
    exact Nat.mod_eq_of_lt (by omega)

/-- Where the payload of a Response holds its currency and private fields, after its report (R93, R94). -/
def RespVal.layout (v : RespVal) : RespLayout :=
  { currency := (12 + v.report.length, 12 + v.report.length + 3)
    priv := (15 + v.report.length, 15 + v.report.length + 10)
    full := decide (25 + v.report.length = 80) }

/-- A Response ENCODE_RESPONSE can encode: its report is whole or empty, its result and amount pass the checks (R134). -/
structure RespVal.Encodable (v : RespVal) : Prop where
  report : v.report.length = 55 ∨ v.report.length = 0
  result : v.result.toNat ≤ 9
  amount : v.amount.toNat ≤ 99999999

theorem slice_append_right {xs ys : List Byte} {a b : Nat} (ha : a = xs.length)
    (hb : b = a + ys.length) : slice (xs ++ ys) a b = ys := by
  simp [slice, ha, hb]

theorem slice_append_left {xs ys : List Byte} {a b : Nat} (h : b ≤ xs.length) :
    slice (xs ++ ys) a b = slice xs a b := by
  simp only [slice, List.drop_append, List.take_append, List.length_drop]
  rw [show b - a - (xs.length - a) = 0 by omega, List.take_zero, List.append_nil]

/-- A Response's fields are found in its payload at the offsets of R93 and R94. -/
theorem respPayload_fields (s : State) :
    slice (respPayload s.respVal) 0 2 = s.respVal.pos ∧
    at_ (respPayload s.respVal) 2 = BitVec.ofNat 8 (0x30 + s.respVal.result.toNat) ∧
    slice (respPayload s.respVal) 3 11 = decDigits 8 s.respVal.amount.toNat ∧
    at_ (respPayload s.respVal) 11 = s.respVal.paymentMode ∧
    slice (respPayload s.respVal) 12 (12 + s.respVal.report.length) = s.respVal.report ∧
    slice (respPayload s.respVal) (12 + s.respVal.report.length)
      (12 + s.respVal.report.length + 3) = s.respVal.currency ∧
    slice (respPayload s.respVal) (15 + s.respVal.report.length)
      (15 + s.respVal.report.length + 10) = s.respVal.priv := by
  have hpos : s.respVal.pos.length = 2 := State.bytesAt_length ..
  have hcur : s.respVal.currency.length = 3 := State.bytesAt_length ..
  have hpriv : s.respVal.priv.length = 10 := State.bytesAt_length ..
  have hmode : at_ (respPayload s.respVal) 11 = s.respVal.paymentMode := by
    simp [respPayload, at_, Config.amountDigits, List.getElem?_append, hpos]
  refine ⟨?_, ?_, ?_, hmode, ?_, ?_, slice_append_right ?_ (by rw [hpriv])⟩
  · simp [respPayload, slice, hpos]
  · simp [respPayload, at_, hpos]
  · simp [respPayload, slice, Config.amountDigits, List.drop_append, List.drop_eq_nil_of_le, hpos]
  · simp [respPayload, slice, Config.amountDigits, List.drop_append, List.drop_eq_nil_of_le, hpos]
  · rw [respPayload, slice_append_left, slice_append_right] <;>
      simp [Config.amountDigits, hpos, hcur] <;> omega
  · simp [Config.amountDigits, hpos, hcur]
    omega

section Encodable

variable {s : State} (hv : s.respVal.Encodable)
include hv

theorem respLayout_respPayload :
    respLayout (respPayload s.respVal).length = some s.respVal.layout := by
  obtain ⟨hreport, -, -⟩ := hv
  rw [respPayload_length]
  exact respLayout_eq (by omega)

/-- Decoding a Response's payload gives the Response back (R130, R136). -/
theorem respOfPayload_respPayload :
    respOfPayload s.respVal.layout (respPayload s.respVal) = s.respVal := by
  obtain ⟨hlen, hresult, hamount⟩ := hv
  obtain ⟨hpos, hres, ham, hmode, hrep, hcur, hpriv⟩ := respPayload_fields s
  have hreport : (if s.respVal.layout.full then slice (respPayload s.respVal) 12 67 else []) =
      s.respVal.report := by
    rcases hlen with h55 | h0
    · rw [h55] at hrep
      simpa [RespVal.layout, h55] using hrep
    · simp [RespVal.layout, List.length_eq_zero_iff.mp h0]
  rw [respOfPayload, hreport]
  simp only [RespVal.layout, hpos, hres, ham, hmode, hcur, hpriv, parseDec_decDigits,
    digitValue_ofNat (show s.respVal.result.toNat < 10 by omega),
    Nat.mod_eq_of_lt (show s.respVal.amount.toNat < 10 ^ 8 by omega), BitVec.ofNat_toNat,
    BitVec.setWidth_eq]

/-- dec_resp of the frame of a Response whose pos and currency are digits answers the Response. -/
theorem decResp_frame (hposDigits : digitsOk s.respVal.pos = true)
    (hcurDigits : digitsOk s.respVal.currency = true) :
    decResp (frame (respPayload s.respVal)) = .ok s.respVal := by
  obtain ⟨hpos, hres, ham, -, -, hcur, -⟩ := respPayload_fields s
  have hresDigit : digitsOk (slice (respPayload s.respVal) 2 3) = true := by
    rw [slice_eq_singleton (by rw [respPayload_length]; omega), hres, digitsOk_cons,
      isDigit_ofNat (Nat.lt_succ_of_le hv.result)]
    rfl
  rw [frame_eq, decResp_eq_ok rfl (respLayout_respPayload hv), respOfPayload_respPayload hv]
  simp [respDigitFields, RespVal.layout, hpos, hresDigit, ham, hcur, hposDigits, hcurDigits,
    digitsOk_decDigits]

end Encodable

theorem RespBlock.reportHeld_length {r : RespBlock}
    (h : r.reportLen.val.toNat = 0 ∨ r.reportLen.val.toNat = Config.reportLen) :
    r.reportHeld.length = r.reportLen.val.toNat := by
  rcases h with h | h
  · simp [RespBlock.reportHeld, h, Config.reportLen]
  · simp [RespBlock.reportHeld, h]

/-- Writing the Response a written RESP block holds changes nothing: RESP_REPORT is written only where it is part of it (R131). -/
theorem State.store_respVal {s : State} (hw : s.resp.written = true)
    (hlen : s.resp.reportLen.val.toNat = 0 ∨ s.resp.reportLen.val.toNat = Config.reportLen) :
    s.resp.store s.respVal = s.resp := by
  obtain ⟨hpos, hresult, hamount, hmode, hl, hcur, hpriv, hreport⟩ := (RespBlock.written_iff _).mp hw
  have hrep : (if s.resp.reportLen.val.toNat = Config.reportLen
      then ByteReg.ofBytes 55 s.resp.reportHeld else s.resp.report) = s.resp.report := by
    split
    · next h => rw [RespBlock.reportHeld, if_pos h, ByteReg.ofBytes_values (hreport h)]
    · rfl
  rw [s.respVal_written hw]
  simp only [RespBlock.store, RespBlock.reportHeld_length hlen, hrep, BitVec.ofNat_toNat,
    BitVec.setWidth_eq, ByteReg.ofBytes_values, Slot.of_val, hpos, hresult, hamount, hmode, hl, hcur,
    hpriv]

/-- Settles O27: the frame stored is the input of DECODE_RESPONSE, and each register stores its field again. -/
theorem encodedResponseDecodesToItself : Obligations.EncodedResponseDecodesToItself := by
  rintro s hbusy ⟨hw, hlen, hresult, hamount, hposDigits, hcurDigits⟩
  have hval := s.respVal_written hw
  have hreport : s.respVal.report.length = s.resp.reportLen.val.toNat := by
    rw [hval, RespBlock.reportHeld_length hlen]
  have hv : s.respVal.Encodable :=
    ⟨by rw [hreport]; exact hlen.symm, by rw [hval]; exact hresult, by rw [hval]; exact hamount⟩
  have henc : encResp s.respReportLen.toNat s.respVal = .ok (frame (respPayload s.respVal)) :=
    encResp_eq_ok (by rw [s.respReportLen_written hw]; exact hlen.symm) hv.result hv.amount
  obtain ⟨m, hstored, hexec⟩ := exec_encodeResponse_ok hw hbusy henc
  have hfits : (frame (respPayload s.respVal)).length < 2 ^ 16 := by
    have hlen := hv.report
    rw [frame_length, respPayload_length]
    omega
  have hin := State.inputIs_of_storedFrame hstored hfits
  have hdec := decResp_frame hv (by rw [hval]; exact hposDigits) (by rw [hval]; exact hcurDigits)
  exact ⟨_, _, hexec, exec_decodeResponse_ok rfl hin hdec, rfl, rfl, State.store_respVal hw hlen⟩

/-! ### Encodings that fail -/

/-- ENCODE_ASK of a bad amount stores nothing (R122, R138). -/
theorem exec_encodeAsk_of_error {s : State} {e : Failure} (hbusy : s.status.busy = false)
    (h : encAsk s.askVal = .error e) : exec .encodeAsk s =
      .next ((s.noteRead s.ask.written).completed .error .amountOutOfRange 0 0) := by
  rw [exec_idle rfl hbusy]
  simp only [acceptStep, encodeAskStep, State.askVal_accept, h, State.accept_fields,
    State.noteRead_accept, State.raise_accept, encAsk_error_amount h]
  rfl

/-- ENCODE_ASK of an Ask that can be encoded, whether or not every register of it is written (R124, R216). -/
theorem exec_encodeAsk_of_ok {s : State} {f : List Byte} (hbusy : s.status.busy = false)
    (h : encAsk s.askVal = .ok f) :
    ∃ m : Memory, s.buf.storedFrame m f ∧ exec .encodeAsk s =
      .next { (s.noteRead s.ask.written).completed .ok .none 0 0 with
        buf := m, bufLen := BitVec.ofNat 16 f.length } := by
  obtain ⟨m, hm, hfin⟩ := (s.noteRead s.ask.written).putFrame_accept_finish f
  refine ⟨m, by simpa using hm, ?_⟩
  rw [exec_idle rfl hbusy, ← hfin]
  simp only [acceptStep, encodeAskStep, State.askVal_accept, h, State.accept_fields,
    State.noteRead_accept]

/-- Settles O19: a bad amount ends ENCODE_ASK with nothing stored; an unwritten register is recorded, whether or not the values drawn can be encoded. -/
theorem encodeAskRefusesBadAmounts : Obligations.EncodeAskRefusesBadAmounts := by
  refine ⟨fun s e hbusy hw he => ?_, fun s hbusy hw => ?_⟩
  · have henc : encAsk s.askVal = .error e := by
      rw [encAsk, s.askVal_written hw]
      simp only [he]
    rw [exec_encodeAsk_of_error hbusy henc, hw, State.noteRead_true]
  · cases h : encAsk s.askVal with
    | error e =>
      refine ⟨_, exec_encodeAsk_of_error hbusy h, ?_⟩
      rw [hw, State.noteRead_false]
      exact ⟨rfl, rfl, rfl, .inr rfl, rfl, rfl, rfl, rfl, fun _ _ => rfl⟩
    | ok f =>
      obtain ⟨m, ⟨-, hrest⟩, hexec⟩ := exec_encodeAsk_of_ok hbusy h
      rw [encAsk_length h] at hrest
      refine ⟨_, hexec, ?_⟩
      rw [hw, State.noteRead_false]
      exact ⟨rfl, rfl, rfl, .inl rfl, rfl, rfl, rfl, rfl, hrest⟩

/-- ENCODE_RESPONSE of a written RESP block that fails a check (R134, R138). -/
theorem exec_encodeResponse_error {s : State} {e : Failure} (hbusy : s.status.busy = false)
    (hw : s.resp.written = true) (h : encResp s.resp.reportLen.val.toNat s.respVal = .error e) :
    exec .encodeResponse s = .next (s.completed .error e.code e.info0 e.info1) := by
  rw [exec_encodeResponse_of_error hbusy (by rwa [s.respReportLen_written hw]),
    s.respReadsWritten_written hw, State.noteRead_true]

theorem encResp_badLength {l : Nat} {v : RespVal} (hl : ¬(l = 55 ∨ l = 0)) :
    encResp l v = .error ⟨.lengthMismatch, BitVec.ofNat 8 l, 0⟩ := if_pos (not_or.mp hl)

theorem encResp_badResult {l : Nat} {v : RespVal} (hl : l = 55 ∨ l = 0)
    (hr : 9 < v.result.toNat) :
    encResp l v = .error ⟨.fieldFormatError, 2, BitVec.ofNat 8 v.result.toNat⟩ := by
  rw [encResp, if_neg (fun h => not_or.mpr h hl), if_pos hr]

theorem encResp_badAmount {l : Nat} {v : RespVal} (hl : l = 55 ∨ l = 0)
    (hr : v.result.toNat ≤ 9) (ha : 99999999 < v.amount.toNat) :
    encResp l v = .error ⟨.amountOutOfRange, 0, 0⟩ := by
  rw [encResp, if_neg (fun h => not_or.mpr h hl), if_neg (Nat.not_lt.mpr hr), if_pos ha]
  rfl

/-- Settles O26: each check is reached where the ones before it pass. -/
theorem encodeResponseReportsTheFirstError : Obligations.EncodeResponseReportsTheFirstError := by
  intro s hbusy hw
  have hresult : s.respVal.result = s.resp.result.val := by rw [s.respVal_written hw]
  have hamount : s.respVal.amount = s.resp.amount.val := by rw [s.respVal_written hw]
  have hlen : (s.resp.reportLen.val = 55 ∨ s.resp.reportLen.val = 0) ↔
      (s.resp.reportLen.val.toNat = 55 ∨ s.resp.reportLen.val.toNat = 0) := by
    simp [← BitVec.toNat_inj]
  refine ⟨fun h55 h0 => ?_, fun hl hr => ?_, fun hl hr ha => ?_⟩
  · rw [exec_encodeResponse_error hbusy hw
      (encResp_badLength fun hl => (hlen.mpr hl).elim h55 h0), BitVec.ofNat_toNat]
  · rw [exec_encodeResponse_error hbusy hw (encResp_badResult (hlen.mp hl) (hresult ▸ hr)),
      hresult, BitVec.ofNat_toNat]
  · exact exec_encodeResponse_error hbusy hw
      (encResp_badAmount (hlen.mp hl) (hresult ▸ hr) (hamount ▸ ha))

/-! ### Inputs that cannot be decoded -/

theorem slice_getElem? {p : List Byte} {a b i : Nat} (h : a + i < b) :
    (slice p a b)[i]? = p[a + i]? := by
  rw [slice, List.getElem?_take_of_lt (by omega), List.getElem?_drop]

theorem mem_slice {p : List Byte} {a b : Nat} {c : Byte} (h : c ∈ slice p a b) :
    ∃ j, a ≤ j ∧ j < b ∧ p[j]? = some c := by
  obtain ⟨i, hi⟩ := List.mem_iff_getElem?.mp h
  obtain ⟨hlt, -⟩ := List.getElem?_eq_some_iff.mp hi
  rw [slice_length] at hlt
  rw [slice_getElem? (by omega)] at hi
  exact ⟨a + i, by omega, by omega, hi⟩

/-- Byte `k` of a payload lies in one of the fields `fs`. -/
def InFields (fs : List (Nat × Nat)) (k : Nat) : Prop := ∃ f ∈ fs, f.1 ≤ k ∧ k < f.2

theorem inFields_cons {f : Nat × Nat} {fs : List (Nat × Nat)} {k : Nat} :
    InFields (f :: fs) k ↔ f.1 ≤ k ∧ k < f.2 ∨ InFields fs k := by
  simp [InFields]

theorem not_inFields_nil {k : Nat} : ¬InFields [] k := by
  simp [InFields]

/-- The digit checks report the non-digit at the lowest offset of the fields, which are checked in the order in which they lie in the payload (R126, R133, R210). -/
theorem digitFailure_eq_some {p : List Byte} {fs : List (Nat × Nat)} {k : Nat} {x : Byte}
    (hsorted : fs.Pairwise fun f g => f.2 ≤ g.1) (hx : p[k]? = some x) (hd : isDigit x = false)
    (hk : InFields fs k)
    (hbefore : ∀ j y, j < k → InFields fs j → p[j]? = some y → isDigit y = true) :
    digitFailure p fs = some ⟨.fieldFormatError, BitVec.ofNat 8 k, x⟩ := by
  induction fs with
  | nil => exact absurd hk not_inFields_nil
  | cons f fs ih =>
    obtain ⟨a, b⟩ := f
    obtain ⟨hhead, htail⟩ := List.pairwise_cons.mp hsorted
    by_cases hin : a ≤ k ∧ k < b
    · have hfirst : firstNonDigit (slice p a b) a = some k := by
        refine firstNonDigit_eq_some.mpr ⟨k - a, x, by omega, ?_, hd, fun i c hi hc => ?_⟩
        · rw [slice_getElem? (by omega), Nat.add_sub_cancel' hin.1, hx]
        · rw [slice_getElem? (by omega)] at hc
          exact hbefore (a + i) c (by omega) (inFields_cons.mpr (.inl (by dsimp only; omega))) hc
      have hat : at_ p k = x := by simp [at_, hx]
      simp only [digitFailure, hfirst, hat]
    · have hlater : InFields fs k := (inFields_cons.mp hk).resolve_left hin
      have hb : b ≤ k := by
        obtain ⟨g, hg, hgk, -⟩ := hlater
        exact (hhead g hg).trans hgk
      have hdigits : firstNonDigit (slice p a b) a = none := by
        rw [firstNonDigit_eq_none, digitsOk, List.all_eq_true]
        intro c hc
        obtain ⟨j, haj, hjb, hj⟩ := mem_slice hc
        exact hbefore j c (by omega) (inFields_cons.mpr (.inl ⟨haj, hjb⟩)) hj
      simp only [digitFailure, hdigits]
      exact ih htail hlater fun j y hj hjf => hbefore j y hj (inFields_cons.mpr (.inr hjf))

/-! The errors of dec_ask and dec_resp, in the order in which they are checked. -/

theorem Failure.checksum_short {f : List Byte} (h : f.length < 3) :
    Failure.checksum f = ⟨.checksumMismatch, 0, 0⟩ := if_neg (Nat.not_le.mpr h)

theorem Failure.checksum_parts (a : Byte) (p : List Byte) (b c : Byte) :
    Failure.checksum (a :: (p ++ [b, c])) =
      ⟨.checksumMismatch, (p ++ [b]).foldl (· ^^^ ·) 0, c⟩ := by
  have hparts : a :: (p ++ [b, c]) = a :: ((p ++ [b]) ++ [c]) := by simp
  rw [Failure.checksum, if_pos (by simp), hparts, lrcComputed_cons, lrcReceived_cons,
    xorFold_eq_foldl]

theorem decAsk_badSum {f : List Byte} (h : lrcOk f = false) : decAsk f = .error (.checksum f) := by
  simp [decAsk, h]

theorem decResp_badSum {f : List Byte} (h : lrcOk f = false) :
    decResp f = .error (.checksum f) := by
  simp [decResp, h]

theorem lrcOk_eq_false {p : List Byte} {a b c : Byte} (h : (p ++ [b]).foldl (· ^^^ ·) 0 ≠ c) :
    lrcOk (a :: (p ++ [b, c])) = false := by
  rw [lrcOk_parts, beq_eq_false_iff_ne]
  exact h

section GoodSum

variable {p : List Byte} {a b c : Byte} (hsum : (p ++ [b]).foldl (· ^^^ ·) 0 = c)
include hsum

theorem decAsk_badLength (h : p.length ≠ 34) :
    decAsk (a :: (p ++ [b, c])) = .error (.length p.length) := by
  have hlen : (a :: (p ++ [b, c])).length - 3 = p.length := by simp
  simp only [decAsk, lrcOk_parts, hsum, beq_self_eq_true, hlen]
  exact if_pos h

theorem decAsk_nonDigit {e : Failure} (h : p.length = 34)
    (hd : digitFailure p askDigitFields = some e) : decAsk (a :: (p ++ [b, c])) = .error e := by
  have hlen : (a :: (p ++ [b, c])).length - 3 = 34 := by simp [h]
  simp only [decAsk, lrcOk_parts, hsum, beq_self_eq_true, hlen, strip_cons, hd]
  rfl

theorem decResp_badLength (h80 : p.length ≠ 80) (h25 : p.length ≠ 25) :
    decResp (a :: (p ++ [b, c])) = .error (.length p.length) := by
  have hlen : (a :: (p ++ [b, c])).length - 3 = p.length := by simp
  have hl : respLayout p.length = none := by
    rw [respLayout, if_neg h80, if_neg h25]
  simp only [decResp, lrcOk_parts, hsum, beq_self_eq_true, hlen, hl]
  rfl

theorem decResp_nonDigit {l : RespLayout} {e : Failure} (hl : respLayout p.length = some l)
    (hd : digitFailure p (respDigitFields l) = some e) :
    decResp (a :: (p ++ [b, c])) = .error e := by
  have hlen : (a :: (p ++ [b, c])).length - 3 = p.length := by simp
  simp only [decResp, lrcOk_parts, hsum, beq_self_eq_true, hlen, hl, strip_cons, hd]
  rfl

end GoodSum

section Errors

variable {s : State} {f : List Byte} {e : Failure} (hbusy : s.status.busy = false)
  (hf : s.inputIs f)
include hbusy hf

/-- DECODE_ASK of a written input that cannot be decoded (R127). -/
theorem exec_decodeAsk_error (h : decAsk f = .error e) :
    exec .decodeAsk s = .next (s.completed .error e.code e.info0 e.info1) := by
  rw [exec_decodeAsk_of_error hbusy (by rwa [State.input_of_inputIs hf]),
    State.noteInput_of_inputIs hf]

/-- DECODE_RESPONSE of a written input that cannot be decoded (R132). -/
theorem exec_decodeResponse_error (h : decResp f = .error e) :
    exec .decodeResponse s = .next (s.completed .error e.code e.info0 e.info1) := by
  rw [exec_decodeResponse_of_error hbusy (by rwa [State.input_of_inputIs hf]),
    State.noteInput_of_inputIs hf]

end Errors

theorem inFields_ask {k : Nat} : InFields askDigitFields k ↔ k < 10 ∨ 13 ≤ k ∧ k < 16 := by
  simp only [askDigitFields, inFields_cons, not_inFields_nil, or_false]
  omega

theorem inFields_resp {l : RespLayout} {k : Nat} :
    InFields (respDigitFields l) k ↔ k < 11 ∨ l.currency.1 ≤ k ∧ k < l.currency.2 := by
  simp only [respDigitFields, inFields_cons, not_inFields_nil, or_false]
  omega

theorem respDigitFields_sorted {l : RespLayout} (h : 11 ≤ l.currency.1) :
    (respDigitFields l).Pairwise fun f g => f.2 ≤ g.1 := by
  simp only [respDigitFields, List.pairwise_cons, List.forall_mem_cons, List.not_mem_nil,
    List.Pairwise.nil, false_imp_iff, implies_true, and_true]
  omega

/-- Settles O21: each check is reached where the ones before it pass. -/
theorem decodeAskReportsTheFirstError : Obligations.DecodeAskReportsTheFirstError := by
  intro s f hbusy hf
  refine ⟨fun hshort => ?_, fun p a b c hparts => ?_⟩
  · rw [exec_decodeAsk_error hbusy hf (decAsk_badSum (lrcOk_short f hshort)),
      Failure.checksum_short hshort]
  · subst hparts
    refine ⟨fun hsum => ?_, fun hsum hlen => ?_, fun k x hsum hlen hx hd hk hbefore => ?_⟩
    · rw [exec_decodeAsk_error hbusy hf (decAsk_badSum (lrcOk_eq_false hsum)),
        Failure.checksum_parts]
    · exact exec_decodeAsk_error hbusy hf (decAsk_badLength hsum hlen)
    · have hfail := digitFailure_eq_some (fs := askDigitFields) (by decide) hx hd
        (inFields_ask.mpr hk) fun j y hj hjf => hbefore j y hj (inFields_ask.mp hjf)
      exact exec_decodeAsk_error hbusy hf (decAsk_nonDigit hsum hlen hfail)

/-- Settles O24: each check is reached where the ones before it pass; the two layouts differ in the offset of the currency field. -/
theorem decodeResponseReportsTheFirstError : Obligations.DecodeResponseReportsTheFirstError := by
  intro s f hbusy hf
  refine ⟨fun hshort => ?_, fun p a b c hparts => ?_⟩
  · rw [exec_decodeResponse_error hbusy hf (decResp_badSum (lrcOk_short f hshort)),
      Failure.checksum_short hshort]
  · subst hparts
    refine ⟨fun hsum => ?_, fun hsum h80 h25 => ?_, fun k cur x hsum hlen hx hd hk hbefore => ?_⟩
    · rw [exec_decodeResponse_error hbusy hf (decResp_badSum (lrcOk_eq_false hsum)),
        Failure.checksum_parts]
    · exact exec_decodeResponse_error hbusy hf (decResp_badLength hsum h80 h25)
    · obtain ⟨l, hl, hcur⟩ : ∃ l, respLayout p.length = some l ∧ l.currency = (cur, cur + 3) :=
        ⟨_, respLayout_eq (priv := cur + 3) (by omega), rfl⟩
      have hiff {j : Nat} : InFields (respDigitFields l) j ↔ j < 11 ∨ cur ≤ j ∧ j < cur + 3 := by
        rw [inFields_resp, hcur]
      have hsorted := respDigitFields_sorted (l := l) (by rw [hcur]; dsimp only; omega)
      have hfail := digitFailure_eq_some hsorted hx hd
        (hiff.mpr hk) fun j y hj hjf => hbefore j y hj (hiff.mp hjf)
      exact exec_decodeResponse_error hbusy hf (decResp_nonDigit hsum hl hfail)

end Sys2Proof.Machine

/-! PROOFS. The statements about SEND: its acceptance, the transitions of its states, and the whole conversation. -/

namespace Sys2Proof.Machine

/-! ### Acceptance -/

theorem State.sendReadsWritten_eq_true {s : State} (hask : s.ask.written = true)
    (harg : s.timeoutArg.written = true) : s.sendReadsWritten = true := by
  simp [State.sendReadsWritten, hask, harg]

/-- Settles O29: what SEND reads being written, nothing is recorded, and TIMEOUT_ARG reads as the value it holds. -/
theorem sendOpensTheConversation : Obligations.SendOpensTheConversation := by
  intro s hbusy hask harg
  have hreads := State.sendReadsWritten_eq_true hask harg
  refine ⟨fun f hf => ?_, fun e he => ?_⟩
  · obtain ⟨m, hstored, hexec⟩ := exec_send_of_ok hbusy hf
    rw [hreads, State.noteRead_true, State.timeoutAt_written _ _ harg] at hexec
    exact ⟨m, hexec, encAsk_length hf, hstored⟩
  · rw [exec_send_of_error hbusy he, hreads, State.noteRead_true, encAsk_error_amount he]
    rfl

/-! ### The transitions of the send states -/

section Transitions

variable {s : State}

/-- R153: in S_AWAIT_ACK a timeout ends the command with INITIALIZATION_FAILED. -/
theorem awaitAckTimeout_eq (hs : s.savedOk) : awaitAckTimeout s =
    { s.ended .error .initializationFailed 0 0 with rdGot := false } := by
  have hread : s.readTimedOut.savedOk := hs
  rw [awaitAckTimeout, State.raise_eq_ended hread]
  rfl

/-- R154: the 37 bytes S_SENDING writes are those held in BUF, and reading them records nothing. -/
theorem sendingStep_eq {f : List Byte} (hlen : f.length = 37) (hf : s.holds f) :
    sendingStep s = { s with txLog := s.txLog ++ f, engine := .sAwaitPostAck } := by
  have hwritten : s.bufWritten 37 = true := hlen ▸ State.bufWritten_of_holds hf
  have hbytes : s.bufBytes 37 = f := hlen ▸ State.bufBytes_of_holds hf
  simp only [sendingStep, hwritten, hbytes, State.noteRead_true]
  rfl

theorem awaitPostAckDeliver_other {b : Byte} (hb : b ≠ Config.ack) : awaitPostAckDeliver b s =
    { s with rdGot := true, rdByte := b, engine := .sCloseRejected } := if_neg hb

/-- R157, R158: EOT is written before the saved timeout is restored. -/
theorem txWrite_finish_eq (hs : s.savedOk) (w : List Byte) (o : CmdOutcome) (i0 i1 : Byte) :
    (s.txWrite w).finish o .none i0 i1 =
      { s.ended o .none i0 i1 with txLog := s.txLog ++ w } := by
  have hwrite : (s.txWrite w).savedOk := hs
  rw [State.finish_eq_ended hwrite]
  rfl

end Transitions

/-- Settles O30: S_AWAIT_ACK is a read-wait state; all but an ACK finishes with the saved timeout restored. -/
theorem sendAwaitsTheFirstAck : Obligations.SendAwaitsTheFirstAck := by
  intro s he hs
  have hw : s.engine.readWait = true := by simp [he, EngineState.readWait]
  refine ⟨?_, fun b hb => ?_, fun hq => ?_⟩
  · rw [step_incoming _ hw, deliver_of_sAwaitAck _ he]
    rfl
  · rw [step_incoming _ hw, deliver_of_sAwaitAck _ he, awaitAckDeliver_other _ hs hb]
  · rw [step_timeout hw hq]
    simp only [timeoutStep, he, awaitAckTimeout_eq hs]

/-- Settles O31: S_SENDING waits for nothing, so its step is the one that writes the frame. -/
theorem sendWritesTheFrame : Obligations.SendWritesTheFrame := by
  intro s f he hlen hf
  rw [step_internal (by simp [he, EngineState.readWait])]
  simp only [internalStep, he, sendingStep_eq hlen hf]

/-- Settles O32: S_AWAIT_POST_ACK is a read-wait state, and none of its three transitions finishes. -/
theorem sendAwaitsTheSecondAck : Obligations.SendAwaitsTheSecondAck := by
  intro s he
  have hw : s.engine.readWait = true := by simp [he, EngineState.readWait]
  refine ⟨?_, fun b hb => ?_, fun hq => ?_⟩
  · rw [step_incoming _ hw, deliver_of_sAwaitPostAck _ he]
    rfl
  · rw [step_incoming _ hw, deliver_of_sAwaitPostAck _ he, awaitPostAckDeliver_other hb]
  · rw [step_timeout hw hq, timeoutStep, he]
    rfl

/-- Settles O33: the close states wait for nothing, write EOT and finish. -/
theorem sendClosesWithEot : Obligations.SendClosesWithEot := by
  intro s hs
  refine ⟨fun he => ?_, fun he => ?_⟩
  · rw [step_internal (by simp [he, EngineState.readWait])]
    simp only [internalStep, he, closeSentStep, txWrite_finish_eq hs]
    rfl
  · rw [step_internal (by simp [he, EngineState.readWait])]
    simp only [internalStep, he, closeRejectedStep, txWrite_finish_eq hs]
    rfl

/-! ### The whole conversation -/

/-- With nothing scheduled and a byte queued, the next step of a command in progress has that byte incoming. -/
theorem step_queued {s : State} {b : Byte} {q : List Byte} (hsched : s.schedule = [])
    (he : s.engine ≠ .idle) (hq : s.rxQ = b :: q) :
    step s = step ({ s with rxQ := q }.incoming b) := by
  rw [step_unscheduled hsched he]
  congr 1
  simp only [State.incoming, State.engineNext, ← hq]

/-- SEND accepted with its frame in BUF, `m` (R151). -/
def State.sendOpened (s : State) (m : Memory) : State :=
  { s.begun with
    buf := m, bufLen := 37, savedTimeout := Slot.of s.tTimeout, toSaved := true,
    tTimeout := s.timeoutArg.val, txLog := s.txLog ++ [0x05], engine := .sAwaitAck }

/-- The first ACK taken off RX_Q, which leaves `q`, and the frame `f` written (R152, R154). -/
def State.frameSent (s : State) (f q : List Byte) : State :=
  { s with
    rxQ := q, rdGot := true, rdByte := 0x06, txLog := s.txLog ++ f, engine := .sAwaitPostAck }

/-- The end of a SEND whose frame is written, by the bytes the terminal has queued (R155 to R158). -/
def State.answeredBy (s : State) : List Byte → State
  | [] => { s.ended .rejected .none 0 0 with rdGot := false, txLog := s.txLog ++ [0x04] }
  | c :: r =>
    if c = 0x06 then
      { s.ended .sent .none 0 0 with
        rdGot := true, rdByte := c, rxQ := r, txLog := s.txLog ++ [0x04] }
    else
      { s.ended .rejected .none c 1 with
        rdGot := true, rdByte := c, rxQ := r, txLog := s.txLog ++ [0x04] }

/-- Whatever the terminal answers, EOT is written and the saved timeout restored. -/
theorem State.answeredBy_fields (s : State) (q : List Byte) :
    (s.answeredBy q).engine = .idle ∧ (s.answeredBy q).status.busy = false ∧
    (s.answeredBy q).tTimeout = (if s.toSaved then s.savedTimeout.val else s.tTimeout) ∧
    (s.answeredBy q).faults = s.faults ∧ (s.answeredBy q).txLog = s.txLog ++ [0x04] ∧
    (s.answeredBy q).err.code = .none := by
  unfold State.answeredBy
  split
  · exact ⟨rfl, rfl, rfl, rfl, rfl, rfl⟩
  · split <;> exact ⟨rfl, rfl, rfl, rfl, rfl, rfl⟩

section Conversation

variable {s : State} (hsched : s.schedule = []) (hs : s.savedOk)
include hsched hs

theorem step_closeSent (he : s.engine = .sCloseSent) :
    step s = .next { s.ended .sent .none 0 0 with txLog := s.txLog ++ [0x04] } := by
  rw [step_unscheduled hsched (by simp [he]), (sendClosesWithEot s hs).1 he]

theorem step_closeRejected (he : s.engine = .sCloseRejected) :
    step s = .next { s.ended .rejected .none (if s.rdGot then s.rdByte else 0)
      (if s.rdGot then 1 else 0) with txLog := s.txLog ++ [0x04] } := by
  rw [step_unscheduled hsched (by simp [he]), (sendClosesWithEot s hs).2 he]

theorem runFor_awaitPostAck (he : s.engine = .sAwaitPostAck) :
    runFor 2 s = .next (s.answeredBy s.rxQ) := by
  have hidle : s.engine ≠ .idle := by simp [he]
  cases hq : s.rxQ with
  | nil =>
    obtain ⟨-, -, htimeout⟩ := sendAwaitsTheSecondAck s he
    have hread := (step_unscheduled hsched hidle).trans (htimeout hq)
    exact (runFor_succ hread).trans (runFor_succ (step_closeRejected hsched hs rfl))
  | cons c r =>
    obtain ⟨hack, hother, -⟩ := sendAwaitsTheSecondAck { s with rxQ := r } he
    have hqueued := step_queued hsched hidle hq
    rw [State.answeredBy]
    split
    · next hc =>
      subst hc
      have hread := hqueued.trans hack
      exact (runFor_succ hread).trans (runFor_succ (step_closeSent hsched hs rfl))
    · next hc =>
      have hread := hqueued.trans (hother c hc)
      exact (runFor_succ hread).trans (runFor_succ (step_closeRejected hsched hs rfl))

theorem runFor_sending {f : List Byte} (he : s.engine = .sSending) (hlen : f.length = 37)
    (hf : s.holds f) : runFor 3 s =
      .next ({ s with txLog := s.txLog ++ f, engine := .sAwaitPostAck }.answeredBy s.rxQ) := by
  have hwrite := (step_unscheduled hsched (by simp [he])).trans (sendWritesTheFrame s f he hlen hf)
  exact (runFor_succ hwrite).trans (runFor_awaitPostAck hsched hs rfl)

theorem runFor_awaitAck_ack {f q : List Byte} (he : s.engine = .sAwaitAck)
    (hq : s.rxQ = 0x06 :: q) (hlen : f.length = 37) (hf : s.holds f) :
    runFor 4 s = .next ((s.frameSent f q).answeredBy q) := by
  obtain ⟨hack, -, -⟩ := sendAwaitsTheFirstAck { s with rxQ := q } he hs
  have hread := (step_queued hsched (by simp [he]) hq).trans hack
  have hrest := runFor_sending
    (s := { s with rxQ := q, rdGot := true, rdByte := 0x06, engine := .sSending })
    hsched hs rfl hlen hf
  exact (runFor_succ hread).trans hrest

theorem runFor_awaitAck_other {b : Byte} {q : List Byte} (he : s.engine = .sAwaitAck)
    (hq : s.rxQ = b :: q) (hb : b ≠ 0x06) : runFor 1 s =
      .next { s.ended .error .initializationFailed b 1 with
        rdGot := true, rdByte := b, rxQ := q } := by
  obtain ⟨-, hother, -⟩ := sendAwaitsTheFirstAck { s with rxQ := q } he hs
  exact runFor_succ ((step_queued hsched (by simp [he]) hq).trans (hother b hb))

theorem runFor_awaitAck_timeout (he : s.engine = .sAwaitAck) (hq : s.rxQ = []) : runFor 1 s =
    .next { s.ended .error .initializationFailed 0 0 with rdGot := false } := by
  obtain ⟨-, -, htimeout⟩ := sendAwaitsTheFirstAck s he hs
  exact runFor_succ ((step_unscheduled hsched (by simp [he])).trans (htimeout hq))

end Conversation

/-- Settles O34: by the terminal's first byte the conversation ends in one step, or goes on to the frame, the terminal's answer and the EOT. -/
theorem sendConversationRunsToItsEnd : Obligations.SendConversationRunsToItsEnd := by
  intro s f hbusy hask harg hsched hf
  obtain ⟨hopens, -⟩ := sendOpensTheConversation s hbusy hask harg
  obtain ⟨m, (hexec : exec .send s = .next (s.sendOpened m)), hlen, hframe, -⟩ := hopens f hf
  have hs : (s.sendOpened m).savedOk := fun _ => rfl
  have hempty : (s.sendOpened m).schedule = [] := hsched
  cases hq : s.rxQ with
  | nil =>
    exact ⟨_, 1, _, hexec, by decide, runFor_awaitAck_timeout hempty hs rfl hq,
      rfl, rfl, rfl, rfl, rfl, rfl, rfl, rfl, rfl, hq⟩
  | cons b q =>
    dsimp only
    split
    · next hb =>
      subst hb
      obtain ⟨hended, hready, htimeout, hfaults, hlog, hcode⟩ :=
        ((s.sendOpened m).frameSent f q).answeredBy_fields q
      refine ⟨_, 4, _, hexec, by decide, runFor_awaitAck_ack hempty hs rfl hq hlen hframe,
        hended, hready, htimeout, hfaults, hlog, hcode, ?_⟩
      cases q with
      | nil => exact ⟨rfl, rfl, rfl, rfl⟩
      | cons c r =>
        dsimp only [State.answeredBy]
        split <;> exact ⟨rfl, rfl, rfl, rfl⟩
    · next hb =>
      exact ⟨_, 1, _, hexec, by decide, runFor_awaitAck_other hempty hs rfl hq hb,
        rfl, rfl, rfl, rfl, rfl, rfl, rfl, rfl, rfl, rfl⟩

end Sys2Proof.Machine

/-! PROOFS. The statements about RECEIVE: its acceptance, the transitions of its states, and the whole conversation. -/

namespace Sys2Proof.Machine

/-- Settles O35: TIMEOUT_ARG being written, its read records nothing and gives the value held. -/
theorem receiveOpensTheConversation : Obligations.ReceiveOpensTheConversation := by
  intro s hbusy harg
  rw [exec_receive_eq hbusy, harg, State.noteRead_true, State.timeoutAt_written _ _ harg]

/-! ### The byte count -/

theorem expectedCount_full (p : Params) :
    expectedCount p p.answerFlagFull = some Config.respFullFrameLen := if_pos rfl

/-- The limited flag is recognised because the two flags differ (R8). -/
theorem expectedCount_limited {p : Params} (h : p.wellFormed = true) :
    expectedCount p p.answerFlagLimited = some Config.respLimitedFrameLen := by
  simp only [Params.wellFormed, Bool.and_eq_true, bne_iff_ne] at h
  rw [expectedCount, if_neg h.1.symm, if_pos rfl]

theorem expectedCount_other {p : Params} {flag : Byte} (hfull : flag ≠ p.answerFlagFull)
    (hlimited : flag ≠ p.answerFlagLimited) : expectedCount p flag = none := by
  rw [expectedCount, if_neg hfull, if_neg hlimited]

section Accepting

variable {s : State}

theorem acceptingStep_of_some {n : Nat} (hw : s.ask.answerFlag.written = true)
    (h : expectedCount s.params s.ask.answerFlag.val = some n) : acceptingStep s =
      { s with expN := BitVec.ofNat 16 n, rxCount := 0, engine := .rReading } := by
  simp only [acceptingStep, s.bitsAt_written _ _ hw, h, hw, State.noteRead_true]

theorem acceptingStep_of_none (hs : s.savedOk) (hw : s.ask.answerFlag.written = true)
    (h : expectedCount s.params s.ask.answerFlag.val = none) : acceptingStep s =
      s.ended .error .unrecognizedAnswerFlag s.ask.answerFlag.val 0 := by
  simp only [acceptingStep, s.bitsAt_written _ _ hw, h, hw, State.noteRead_true,
    State.raise_eq_ended hs]

/-- R216: the unwritten flag is recorded whatever value is drawn for it; `raise` keeps FAULTS. -/
theorem acceptingStep_unwritten (hs : s.savedOk) (hw : s.ask.answerFlag.written = false) :
    (acceptingStep s).faults.unwritten = true := by
  have hfaulted : s.faulted.savedOk := hs
  unfold acceptingStep
  dsimp only
  rw [hw, State.noteRead_false]
  split
  · rfl
  · rw [State.raise_eq_ended hfaulted]
    rfl

theorem step_accepting (he : s.engine = .rAccepting) :
    step s.engineNext = .next (acceptingStep s) := by
  rw [step_internal (by simp [he, EngineState.readWait]), internalStep, he]

end Accepting

/-- Settles O37: a written flag reads as its value, and which of the two it is decides the step; the read of an unwritten one is recorded first. -/
theorem receiveChoosesTheByteCount : Obligations.ReceiveChoosesTheByteCount := by
  intro s he hs hp
  rw [step_accepting he]
  refine ⟨fun hw => ⟨fun hfull => ?_, fun hlimited => ?_, fun hfull hlimited => ?_⟩,
    fun hw => ⟨_, rfl, acceptingStep_unwritten hs hw⟩⟩
  · rw [acceptingStep_of_some hw (hfull ▸ expectedCount_full s.params)]
    rfl
  · rw [acceptingStep_of_some hw (hlimited ▸ expectedCount_limited hp)]
    rfl
  · rw [acceptingStep_of_none hs hw (expectedCount_other hfull hlimited)]

/-! ### The bytes of the frame -/

section Reading

variable {s : State}

/-- R174: a delivered byte that leaves the read incomplete is stored, and that is the whole step. -/
theorem step_reading_incomplete (b : Byte) (he : s.engine = .rReading)
    (h : s.rxCount.toNat + 1 < s.expN.toNat) : step (s.incoming b) =
      .next { s with buf := s.buf.write s.rxCount.toNat b,
                     rxCount := BitVec.ofNat 16 (s.rxCount.toNat + 1) } := by
  rw [step_incoming b (by simp [he, EngineState.readWait]), deliver_of_rReading b he,
    readingDeliver_incomplete b h]

/-- The byte that completes the read is stored, and the framing check runs on the frame with it (R174, R175). -/
theorem readingDeliver_complete (b : Byte) (h : s.rxCount.toNat + 1 = s.expN.toNat) :
    readingDeliver b s =
      framingCheck { s with buf := s.buf.write s.rxCount.toNat b, rxCount := s.expN } := by
  have hcount : s.rxCount + 1 = s.expN := by bv_omega
  simp only [readingDeliver, hcount, if_true]

/-- R175: the two bytes looked at being written, the check records nothing and goes by their values. -/
theorem framingCheck_eq {first last : Byte} (hs : s.savedOk) (hfirst : s.buf.read 0 = some first)
    (hlast : s.buf.read (s.expN.toNat - 2) = some last) : framingCheck s =
      if first = Config.stx ∧ last = Config.etx then { s with engine := .rVerifying }
      else s.ended .error .framingError first last := by
  simp only [framingCheck, State.bufByte, hfirst, hlast, Option.isSome_some, Bool.and_self,
    State.noteRead_true, State.raise_eq_ended hs]
  by_cases h : first = Config.stx ∧ last = Config.etx
  · rw [if_pos h, if_neg (by simp [h])]
  · rw [if_neg h, if_pos (by tauto)]

/-- The step of the byte that completes the read, by the two bytes the framing check finds (R174, R175). -/
theorem step_reading_complete (b : Byte) {first last : Byte} (he : s.engine = .rReading)
    (hs : s.savedOk) (hcount : s.rxCount.toNat + 1 = s.expN.toNat)
    (hfirst : (s.buf.write s.rxCount.toNat b).read 0 = some first)
    (hlast : (s.buf.write s.rxCount.toNat b).read (s.expN.toNat - 2) = some last) :
    step (s.incoming b) = .next (if first = 0x02 ∧ last = 0x03
      then { s with
        buf := s.buf.write s.rxCount.toNat b, rxCount := s.expN, engine := .rVerifying }
      else { s.ended .error .framingError first last with
        buf := s.buf.write s.rxCount.toNat b, rxCount := s.expN }) := by
  have hcheck := framingCheck_eq
    (s := { s with buf := s.buf.write s.rxCount.toNat b, rxCount := s.expN }) hs hfirst hlast
  rw [step_incoming b (by simp [he, EngineState.readWait]), deliver_of_rReading b he,
    readingDeliver_complete b hcount, hcheck]
  rfl

/-- A byte written right after those held lengthens the sequence stored by one. -/
theorem Memory.storedFrame_write {m : Memory} {f : List Byte} (b : Byte)
    (h : ∀ k, k < f.length → m.read k = f[k]?) :
    m.storedFrame (m.write f.length b) (f ++ [b]) := by
  refine ⟨fun k hk => ?_, fun k hk => ?_⟩
  · rw [List.length_append, List.length_singleton] at hk
    rcases Nat.lt_succ_iff_lt_or_eq.mp hk with hlt | rfl
    · rw [Memory.read_write_other _ _ hlt.ne, h k hlt, List.getElem?_append_left hlt]
    · simp
  · rw [List.length_append, List.length_singleton] at hk
    exact Memory.read_write_other _ _ (by omega)

end Reading

/-- Settles O38: BUF[RX_COUNT] is written, and a write leaves every other byte. -/
theorem receiveStoresEachByte : Obligations.ReceiveStoresEachByte :=
  fun _ b he h => ⟨_, step_reading_incomplete b he h, Memory.read_write_same .., fun _ hk =>
    Memory.read_write_other _ _ hk⟩

/-- Settles O39: the two bytes the framing check looks at lie in the part of the frame that was held before the last byte came. -/
theorem receiveChecksTheFraming : Obligations.ReceiveChecksTheFraming := by
  intro s f b first last he hs hlen hf hcount h2 hfirst hlast
  have hstored := Memory.storedFrame_write b hf
  have hlast' : f.length - 1 = s.expN.toNat - 2 := by omega
  have hread {k : Nat} (hk : k < f.length) : (s.buf.write s.rxCount.toNat b).read k = f[k]? :=
    (Memory.read_write_other _ _ (by omega)).trans (hf k hk)
  refine ⟨_, hlen ▸ hstored, ?_⟩
  rw [step_reading_complete b he hs hcount ((hread (by omega)).trans hfirst)
    (hlast' ▸ (hread (by omega)).trans hlast)]
  exact ⟨fun h => congrArg Host.Outcome.next (if_pos h),
    fun h => congrArg Host.Outcome.next (if_neg h)⟩

/-- Settles O40: R_READING is a read-wait state, and its timeout finishes with the saved timeout restored. -/
theorem receiveReportsATruncatedAnswer : Obligations.ReceiveReportsATruncatedAnswer := by
  intro s he hs hq
  rw [step_timeout (by simp [he, EngineState.readWait]) hq]
  simp only [timeoutStep, he, readingTimeout, State.raise_eq_ended hs]

/-! ### The completion -/

/-- R182, R183: EOT_MISSING records that the EOT did not come, and else stays. -/
theorem State.noteEot_eq (s : State) : s.noteEot =
    { s with err := { s.err with eotMissing := s.err.eotMissing || !s.eotOk } } := by
  unfold State.noteEot
  split
  · next hok =>
    have hsame : (s.err.eotMissing || !s.eotOk) = s.err.eotMissing := by simp [hok]
    rw [hsame]
  · next hok =>
    have hset : (s.err.eotMissing || !s.eotOk) = true := by simp [hok]
    rw [hset]

section Decoding

variable {s : State} {f : List Byte} (hs : s.savedOk) (hlen : f.length = s.expN.toNat)
  (hf : s.holds f)
include hs hlen hf

theorem decodingStep_ok {v : RespVal} (h : decResp f = .ok v) (hok : s.eotOk = true) :
    decodingStep s = { s.ended .response .none 0 0 with
      resp := s.resp.store v, bufLen := s.expN,
      status := { (s.ended .response .none 0 0).status with
        respValid := true, frameAvail := true } } := by
  have hkept : ((s.writeResp v).keepFrame).savedOk := hs
  have hnote : s.noteEot = s := if_pos hok
  simp only [decodingStep, ← hlen, State.bufBytes_of_holds hf, State.bufWritten_of_holds hf, h,
    State.noteRead_true, hnote, hok, if_true, State.finish_eq_ended hkept]
  rfl

theorem decodingStep_missing {v : RespVal} (h : decResp f = .ok v) (hok : s.eotOk = false) :
    decodingStep s = { s.ended .error .missingTerminator (if s.eotGot then s.eotByte else 0)
        (if s.eotGot then 1 else 0) with
      resp := s.resp.store v, bufLen := s.expN,
      err := { code := .missingTerminator, eotMissing := true },
      status := { (s.ended .error .none 0 0).status with
        respValid := true, frameAvail := true } } := by
  have hkept : ((s.noteEot.writeResp v).keepFrame).savedOk := by simpa [State.savedOk] using hs
  simp only [decodingStep, ← hlen, State.bufBytes_of_holds hf, State.bufWritten_of_holds hf, h,
    State.noteRead_true, State.raise_eq_ended hkept]
  have hnote : s.noteEot = { s with err := { s.err with eotMissing := true } } :=
    if_neg (by simp [hok])
  rw [if_neg (by simp [hok]), hnote]
  rfl

theorem decodingStep_error {e : Failure} (h : decResp f = .error e) :
    decodingStep s =
      if e.code = .checksumMismatch ∧ s.ctrl.lenient = true then
        { s.ended .error e.code e.info0 e.info1 with
          bufLen := s.expN,
          err := { code := e.code, eotMissing := s.err.eotMissing || !s.eotOk },
          status := { (s.ended .error .none 0 0).status with frameAvail := true } }
      else { s.ended .error e.code e.info0 e.info1 with
        err := { code := e.code, eotMissing := s.err.eotMissing || !s.eotOk } } := by
  have hnoted : s.noteEot.savedOk := by simpa [State.savedOk] using hs
  have hkept : s.noteEot.keepFrame.savedOk := hnoted
  simp only [decodingStep, ← hlen, State.bufBytes_of_holds hf, State.bufWritten_of_holds hf, h,
    State.noteRead_true, State.raise_eq_ended hnoted, State.raise_eq_ended hkept]
  rw [State.noteEot_eq]
  rfl

end Decoding

theorem step_decoding {s : State} (he : s.engine = .rDecoding) :
    step s.engineNext = .next (decodingStep s) := by
  rw [step_internal (by simp [he, EngineState.readWait]), internalStep, he]

/-- Settles O42: the rows of R182, by what the frame decodes to and whether the EOT came. -/
theorem receiveCompletesByTheTable : Obligations.ReceiveCompletesByTheTable := by
  intro s f he hs hlen hf
  rw [step_decoding he]
  refine ⟨fun v hv => ⟨fun hok => ?_, fun hok => ?_⟩, fun e herr => ?_⟩
  · rw [decodingStep_ok hs hlen hf hv hok]
  · rw [decodingStep_missing hs hlen hf hv hok]
  · rw [decodingStep_error hs hlen hf herr]
    exact ⟨fun hkept => by rw [if_pos hkept], fun hdropped => by rw [if_neg hdropped]⟩

/-! ### The whole RECEIVE -/

theorem State.read_of_bufWritten {s : State} {n k : Nat} (h : s.bufWritten n = true)
    (hk : k < n) : s.buf.read k = some (s.bufByte k) := by
  simp only [State.bufWritten, List.all_eq_true, List.mem_range] at h
  obtain ⟨b, hb⟩ := Option.isSome_iff_exists.mp (h k hk)
  simp [State.bufByte, hb]

/-- Bytes that are all written are held as MemRead gives them. -/
theorem State.holds_bufBytes {s : State} {n : Nat} (h : s.bufWritten n = true) :
    s.holds (s.bufBytes n) := by
  intro k hk
  rw [State.bufBytes_length] at hk
  simp [State.read_of_bufWritten h hk, State.bufBytes, hk]

/-- R181: of a Response frame's length, dec_resp never answers LENGTH_MISMATCH. -/
theorem decResp_error_of_frameLength {f : List Byte} {e : Failure}
    (hlen : f.length = Config.respFullFrameLen ∨ f.length = Config.respLimitedFrameLen)
    (h : decResp f = .error e) :
    e.code = .checksumMismatch ∨ e.code = .fieldFormatError := by
  have hlayout : respLayout (f.length - 3) ≠ none := by
    rcases hlen with hlen | hlen <;> rw [hlen] <;> decide
  unfold decResp at h
  split at h
  · cases h
    exact .inl (Failure.checksum_code f)
  · split at h
    · next hnone => exact absurd hnone hlayout
    · split at h
      · next hdigit =>
        cases h
        exact .inr (digitFailure_code hdigit)
      · cases h

/-- How a RECEIVE ends whose acceptance found TX_LOG at `log`: its outcome and code, and the ACKs written (R186, R204). -/
def State.ReceiveOutcome (u : State) (log : List Byte) : Prop :=
  u.status.outcome = .noAnswer ∧ u.err.code = .none ∧ u.txLog = log ∨
  u.status.outcome = .error ∧
    u.err.code ∈ [ErrCode.unrecognizedAnswerFlag, .truncatedAnswer, .framingError] ∧
    u.txLog = log ++ [0x06] ∨
  u.status.outcome = .response ∧ u.err.code = .none ∧ u.txLog = log ++ [0x06, 0x06] ∨
  u.status.outcome = .error ∧
    u.err.code ∈ [ErrCode.checksumMismatch, .fieldFormatError, .missingTerminator] ∧
    u.txLog = log ++ [0x06, 0x06]

/-- `u` ends the RECEIVE in progress in `s`: the saved timeout restored (R188), no fault recorded, at most `n` bytes taken off the head of RX_Q (R187). -/
structure State.ReceiveEnd (s u : State) (n : Nat) (log : List Byte) : Prop where
  idle : u.engine = .idle
  ready : u.status.busy = false
  timeout : u.tTimeout = s.savedTimeout.val
  faults : u.faults = s.faults
  taken : ∃ j ≤ n, u.rxQ = s.rxQ.drop j
  outcome : u.ReceiveOutcome log

/-- The RECEIVE in progress in `s` ends within `k` steps and takes at most `n` bytes more. -/
def State.EndsWithin (s : State) (k n : Nat) (log : List Byte) : Prop :=
  ∃ j u, j ≤ k ∧ runFor j s = .next u ∧ s.ReceiveEnd u n log

theorem State.EndsWithin.mono {s : State} {k k' n n' : Nat} {log : List Byte}
    (h : s.EndsWithin k n log) (hk : k ≤ k') (hn : n ≤ n') : s.EndsWithin k' n' log := by
  obtain ⟨j, u, hj, hrun, hend⟩ := h
  obtain ⟨i, hi, htaken⟩ := hend.taken
  exact ⟨j, u, hj.trans hk, hrun, { hend with taken := ⟨i, hi.trans hn, htaken⟩ }⟩

theorem State.EndsWithin.of_end {s u : State} {n : Nat} {log : List Byte}
    (hstep : step s = .next u) (h : s.ReceiveEnd u n log) : s.EndsWithin 1 n log :=
  ⟨1, u, le_rfl, runFor_succ hstep, h⟩

/-- A step that takes `d` bytes and touches neither the saved timeout nor FAULTS leaves the rest of the RECEIVE. -/
theorem State.EndsWithin.of_step {s t : State} {k n d : Nat} {log : List Byte}
    (h : t.EndsWithin k n log) (hstep : step s = .next t) (hsaved : t.savedTimeout = s.savedTimeout)
    (hfaults : t.faults = s.faults) (hq : t.rxQ = s.rxQ.drop d) :
    s.EndsWithin (k + 1) (n + d) log := by
  obtain ⟨j, u, hj, hrun, hend⟩ := h
  obtain ⟨i, hi, htaken⟩ := hend.taken
  exact ⟨j + 1, u, by omega, (runFor_succ hstep).trans hrun, {
    hend with
    timeout := hsaved ▸ hend.timeout
    faults := hend.faults.trans hfaults
    taken := ⟨d + i, by omega, by rw [htaken, hq, List.drop_drop]⟩ }⟩

/-- Nothing is scheduled, so the ENGINE and TIMEOUT take every turn (log 6), and the timeout to be restored is saved. -/
structure State.Undisturbed (s : State) : Prop where
  unscheduled : s.schedule = []
  toSaved : s.toSaved = true
  written : s.savedTimeout.written = true

section Conversation

variable {s : State} {log : List Byte} (hu : s.Undisturbed)
include hu

theorem State.Undisturbed.savedOk : s.savedOk := fun _ => hu.written

/-- The value `finish` restores is the one saved (R188). -/
theorem State.Undisturbed.restored :
    (if s.toSaved then s.savedTimeout.val else s.tTimeout) = s.savedTimeout.val := if_pos hu.toSaved

theorem endsWithin_decoding (he : s.engine = .rDecoding) (hsize : s.SizeKnown)
    (hw : s.bufWritten s.expN.toNat = true) (hlog : s.txLog = log ++ [0x06, 0x06]) :
    s.EndsWithin 1 0 log := by
  have hlen := s.bufBytes_length s.expN.toNat
  have hf := State.holds_bufBytes hw
  have hstep := (step_unscheduled hu.unscheduled (by simp [he])).trans (step_decoding he)
  refine State.EndsWithin.of_end hstep ?_
  cases hd : decResp (s.bufBytes s.expN.toNat) with
  | ok v =>
    cases hok : s.eotOk with
    | true =>
      rw [decodingStep_ok hu.savedOk hlen hf hd hok]
      exact ⟨rfl, rfl, hu.restored, rfl, ⟨0, le_rfl, rfl⟩,
        .inr (.inr (.inl ⟨rfl, rfl, hlog⟩))⟩
    | false =>
      rw [decodingStep_missing hu.savedOk hlen hf hd hok]
      exact ⟨rfl, rfl, hu.restored, rfl, ⟨0, le_rfl, rfl⟩,
        .inr (.inr (.inr ⟨rfl, by simp, hlog⟩))⟩
  | error e =>
    have hcode : e.code ∈ [ErrCode.checksumMismatch, .fieldFormatError, .missingTerminator] := by
      rcases decResp_error_of_frameLength (hlen.symm ▸ hsize) hd with hc | hc <;> simp [hc]
    rw [decodingStep_error hu.savedOk hlen hf hd]
    split <;> exact ⟨rfl, rfl, hu.restored, rfl, ⟨0, le_rfl, rfl⟩,
      .inr (.inr (.inr ⟨rfl, hcode, hlog⟩))⟩

theorem endsWithin_awaitEot (he : s.engine = .rAwaitEot) (hsize : s.SizeKnown)
    (hw : s.bufWritten s.expN.toNat = true) (hlog : s.txLog = log ++ [0x06, 0x06]) :
    s.EndsWithin 2 1 log := by
  have hidle : s.engine ≠ .idle := by simp [he]
  cases hq : s.rxQ with
  | nil =>
    obtain ⟨-, hawait⟩ := receiveAcknowledgesAndAwaitsEot s
    obtain ⟨-, htimeout⟩ := hawait he
    have hstep := (step_unscheduled hu.unscheduled hidle).trans (htimeout hq)
    have hrest := endsWithin_decoding
      (s := { s with rdGot := false, eotOk := false, eotGot := false, engine := .rDecoding })
      ⟨hu.unscheduled, hu.toSaved, hu.written⟩ rfl hsize hw hlog
    exact (hrest.of_step (d := 0) hstep rfl rfl rfl).mono le_rfl (by decide)
  | cons b q =>
    obtain ⟨-, hawait⟩ := receiveAcknowledgesAndAwaitsEot { s with rxQ := q }
    obtain ⟨hdeliver, -⟩ := hawait he
    have hstep := (step_queued hu.unscheduled hidle hq).trans (hdeliver b)
    have hrest := endsWithin_decoding
      (s := { s with
        rxQ := q, rdGot := true, rdByte := b, eotOk := decide (b = 0x04), eotGot := true,
        eotByte := b, engine := .rDecoding })
      ⟨hu.unscheduled, hu.toSaved, hu.written⟩ rfl hsize hw hlog
    exact hrest.of_step (d := 1) hstep rfl rfl (by rw [hq]; rfl)

theorem endsWithin_verifying (he : s.engine = .rVerifying) (hsize : s.SizeKnown)
    (hw : s.bufWritten s.expN.toNat = true) (hlog : s.txLog = log ++ [0x06]) :
    s.EndsWithin 3 1 log := by
  obtain ⟨hack, -⟩ := receiveAcknowledgesAndAwaitsEot s
  have hstep := (step_unscheduled hu.unscheduled (by simp [he])).trans (hack he)
  have hrest := endsWithin_awaitEot (log := log)
    (s := { s with txLog := s.txLog ++ [0x06], engine := .rAwaitEot })
    ⟨hu.unscheduled, hu.toSaved, hu.written⟩ rfl hsize hw (by simp [hlog])
  exact hrest.of_step (d := 0) hstep rfl rfl rfl

theorem endsWithin_reading_timeout (he : s.engine = .rReading) (hq : s.rxQ = [])
    (hlog : s.txLog = log ++ [0x06]) : s.EndsWithin 1 0 log := by
  have hstep := (step_unscheduled hu.unscheduled (by simp [he])).trans
    (receiveReportsATruncatedAnswer s he hu.savedOk hq)
  exact State.EndsWithin.of_end hstep ⟨rfl, rfl, hu.restored, rfl, ⟨0, le_rfl, rfl⟩,
    .inr (.inl ⟨rfl, by simp [State.ended], hlog⟩)⟩

theorem endsWithin_reading_last {b : Byte} {q : List Byte} (he : s.engine = .rReading)
    (hsize : s.SizeKnown) (hw : s.bufWritten s.rxCount.toNat = true)
    (hcount : s.rxCount.toNat + 1 = s.expN.toNat) (hq : s.rxQ = b :: q)
    (hlog : s.txLog = log ++ [0x06]) : s.EndsWithin 4 2 log := by
  have hfull := State.bufWritten_succ (b := b) hw
  rw [hcount] at hfull
  have hbounds := hsize.bounds
  have hfirst := State.read_of_bufWritten hfull (k := 0) (by omega)
  have hlast := State.read_of_bufWritten hfull (k := s.expN.toNat - 2) (by omega)
  have hstep := (step_queued hu.unscheduled (by simp [he]) hq).trans
    (step_reading_complete (s := { s with rxQ := q }) b he hu.savedOk hcount hfirst hlast)
  split at hstep
  · have hrest := endsWithin_verifying
      (s := { s with
        rxQ := q, buf := s.buf.write s.rxCount.toNat b, rxCount := s.expN, engine := .rVerifying })
      ⟨hu.unscheduled, hu.toSaved, hu.written⟩ rfl hsize hfull hlog
    exact hrest.of_step (d := 1) hstep rfl rfl (by rw [hq]; rfl)
  · have hend := State.EndsWithin.of_end hstep ⟨rfl, rfl, hu.restored, rfl,
      ⟨1, le_rfl, by rw [hq]; rfl⟩, .inr (.inl ⟨rfl, by simp [State.ended], hlog⟩)⟩
    exact hend.mono (by decide) (by decide)

/-- `r` more bytes are to come before the one that completes the read. -/
theorem endsWithin_reading {r : Nat} (he : s.engine = .rReading) (hsize : s.SizeKnown)
    (hw : s.bufWritten s.rxCount.toNat = true) (hcount : s.rxCount.toNat + r + 1 = s.expN.toNat)
    (hlog : s.txLog = log ++ [0x06]) : s.EndsWithin (r + 4) (r + 2) log := by
  induction r generalizing s with
  | zero =>
    cases hq : s.rxQ with
    | nil => exact (endsWithin_reading_timeout hu he hq hlog).mono (by decide) (by decide)
    | cons b q => exact endsWithin_reading_last hu he hsize hw hcount hq hlog
  | succ r ih =>
    cases hq : s.rxQ with
    | nil => exact (endsWithin_reading_timeout hu he hq hlog).mono (by omega) (by omega)
    | cons b q =>
      have hlt : s.rxCount.toNat + 1 < s.expN.toNat := by omega
      have hstep := (step_queued hu.unscheduled (by simp [he]) hq).trans
        (step_reading_incomplete (s := { s with rxQ := q }) b he hlt)
      have hnext : (BitVec.ofNat 16 (s.rxCount.toNat + 1)).toNat = s.rxCount.toNat + 1 := by
        bv_omega
      have hrest := ih
        (s := { s with
          rxQ := q, buf := s.buf.write s.rxCount.toNat b,
          rxCount := BitVec.ofNat 16 (s.rxCount.toNat + 1) })
        ⟨hu.unscheduled, hu.toSaved, hu.written⟩ he hsize
        (hnext.symm ▸ State.bufWritten_succ (b := b) hw) (by dsimp only; omega) hlog
      exact (hrest.of_step (d := 1) hstep rfl rfl (by rw [hq]; rfl)).mono (by omega) (by omega)

/-- The number of bytes the answer flag asks for; 0 for a flag that is not recognised (R173). -/
def State.askedCount (s : State) : Nat := (expectedCount s.params s.ask.answerFlag.val).getD 0

theorem endsWithin_accepting (he : s.engine = .rAccepting)
    (hflag : s.ask.answerFlag.written = true) (hlog : s.txLog = log ++ [0x06]) :
    s.EndsWithin (s.askedCount + 4) (s.askedCount + 1) log := by
  have hstep := (step_unscheduled hu.unscheduled (by simp [he])).trans (step_accepting he)
  cases hc : expectedCount s.params s.ask.answerFlag.val with
  | none =>
    rw [acceptingStep_of_none hu.savedOk hflag hc] at hstep
    have hend := State.EndsWithin.of_end hstep ⟨rfl, rfl, hu.restored, rfl, ⟨0, le_rfl, rfl⟩,
      .inr (.inl ⟨rfl, by simp [State.ended], hlog⟩)⟩
    exact hend.mono (by omega) (by omega)
  | some n =>
    rw [acceptingStep_of_some hflag hc] at hstep
    have hn := expectedCount_eq_some hc
    have hasked : s.askedCount = n := by rw [State.askedCount, hc, Option.getD_some]
    have hexp : (BitVec.ofNat 16 n).toNat = n := by rcases hn with rfl | rfl <;> rfl
    have hsize : (BitVec.ofNat 16 n).toNat = Config.respFullFrameLen ∨
        (BitVec.ofNat 16 n).toNat = Config.respLimitedFrameLen := by rwa [hexp]
    have hpos : 0 < n := by rcases hn with rfl | rfl <;> decide
    have hrest := endsWithin_reading (r := n - 1) (log := log)
      (s := { s with expN := BitVec.ofNat 16 n, rxCount := 0, engine := .rReading })
      ⟨hu.unscheduled, hu.toSaved, hu.written⟩ rfl hsize rfl
      (by simp [hexp]; omega) hlog
    exact (hrest.of_step (d := 0) hstep rfl rfl rfl).mono (by omega) (by omega)

theorem endsWithin_awaitEnq (he : s.engine = .rAwaitEnq)
    (hflag : s.ask.answerFlag.written = true) :
    s.EndsWithin (s.askedCount + 5) (s.askedCount + 2) s.txLog := by
  have hidle : s.engine ≠ .idle := by simp [he]
  cases hq : s.rxQ with
  | nil =>
    obtain ⟨-, -, htimeout⟩ := receiveAwaitsTheEnq s he hu.savedOk
    have hstep := (step_unscheduled hu.unscheduled hidle).trans (htimeout hq)
    have hend := State.EndsWithin.of_end hstep ⟨rfl, rfl, hu.restored, rfl, ⟨0, le_rfl, rfl⟩,
      .inl ⟨rfl, rfl, rfl⟩⟩
    exact hend.mono (by omega) (by omega)
  | cons b q =>
    obtain ⟨henq, hother, -⟩ := receiveAwaitsTheEnq { s with rxQ := q } he hu.savedOk
    have hqueued := step_queued hu.unscheduled hidle hq
    by_cases hb : b = 0x05
    · subst hb
      have hrest := endsWithin_accepting (log := s.txLog)
        (s := { s with
          rxQ := q, rdGot := true, rdByte := 0x05, txLog := s.txLog ++ [0x06],
          engine := .rAccepting })
        ⟨hu.unscheduled, hu.toSaved, hu.written⟩ rfl hflag rfl
      exact hrest.of_step (d := 1) (hqueued.trans henq) rfl rfl (by rw [hq]; rfl)
    · have hend := State.EndsWithin.of_end (hqueued.trans (hother b hb))
        ⟨rfl, rfl, hu.restored, rfl, ⟨1, le_rfl, by rw [hq]; rfl⟩, .inl ⟨rfl, rfl, rfl⟩⟩
      exact hend.mono (by omega) (by omega)

end Conversation

/-- Not more than a full frame is asked for. -/
theorem State.askedCount_le (s : State) : s.askedCount ≤ 83 := by
  unfold State.askedCount
  cases hc : expectedCount s.params s.ask.answerFlag.val with
  | none => exact Nat.zero_le _
  | some n => rcases expectedCount_eq_some hc with rfl | rfl <;> decide

theorem State.askedCount_limited {s : State} (hp : s.params.wellFormed = true)
    (h : s.ask.answerFlag.val = s.params.answerFlagLimited) : s.askedCount = 28 := by
  rw [State.askedCount, h, expectedCount_limited hp, Option.getD_some]

/-- RECEIVE accepted (R171). -/
def State.receiveOpened (s : State) : State :=
  { s.begun with
    bufLen := 0, savedTimeout := Slot.of s.tTimeout, toSaved := true,
    tTimeout := s.timeoutArg.val, eotOk := false, eotGot := false, eotByte := 0, rxCount := 0,
    engine := .rAwaitEnq }

/-- Settles O43: from state to state the RECEIVE goes on or ends, the steps and bytes left being bounded in each; while reading, by induction on the bytes to come. -/
theorem receiveConversationRunsToItsEnd : Obligations.ReceiveConversationRunsToItsEnd := by
  intro s hbusy harg hflag hp hsched
  have hopens : exec .receive s = .next s.receiveOpened :=
    receiveOpensTheConversation s hbusy harg
  have hmax := s.askedCount_le
  obtain ⟨k, u, hk, hrun, hend⟩ := endsWithin_awaitEnq (s := s.receiveOpened)
    ⟨hsched, rfl, rfl⟩ rfl hflag
  have hk : k ≤ s.askedCount + 5 := hk
  obtain ⟨n, (hn : n ≤ s.askedCount + 2), htaken⟩ := hend.taken
  refine ⟨_, k, u, n, hopens, by omega, fun hlimited => ?_, hrun, hend.idle, hend.ready,
    hend.timeout, hend.faults, by omega, htaken, hend.outcome⟩
  rw [State.askedCount_limited hp hlimited] at hk
  exact hk

end Sys2Proof.Machine

/-! PROOFS. The statement about the commands that complete in the step that accepts them. -/

namespace Sys2Proof.Machine

/-! ### The six checksum and codec commands -/

/-- The command ended in the step that accepted it: no conversation is open, and the transport, the parameters and the CALLER's CTRL and TIMEOUT_ARG are as before (R206, R207). -/
def State.CompletedAtOnce (s t : State) : Prop :=
  t.status.busy = false ∧ t.engine = .idle ∧
  (t.status.outcome = .ok ∨ t.status.outcome = .error) ∧
  t.status.overrun = s.status.overrun ∧ t.status.frameAvail = false ∧
  t.txLog = s.txLog ∧ t.rxQ = s.rxQ ∧ t.tTimeout = s.tTimeout ∧ t.params = s.params ∧
  t.ctrl = s.ctrl ∧ t.timeoutArg = s.timeoutArg

/-- Acceptance and `finish` together complete a command, whether or not what it read was written. What a command leaves in LRC_VALUE, CHECK, RESP_VALID, ERR, BUF or a block is no part of it, so the lemma serves as well where those are written too. -/
theorem State.completedAtOnce_completed (s : State) (written : Bool) {o : CmdOutcome}
    (ho : o = .ok ∨ o = .error) (c : ErrCode) (i0 i1 : Byte) :
    s.CompletedAtOnce ((s.noteRead written).completed o c i0 i1) := by
  simp [State.CompletedAtOnce, State.completed, ho]

section AtOnce

variable {s : State} (hbusy : s.status.busy = false)
include hbusy

theorem exec_lrc_completes : ∃ t, exec .lrc s = .next t ∧ s.CompletedAtOnce t := by
  by_cases hin : s.input = []
  · exact ⟨_, exec_lrc_empty hbusy hin,
      s.completedAtOnce_completed true (.inr rfl) .emptyInput 0 0⟩
  · exact ⟨_, exec_lrc_nonempty hbusy hin, s.completedAtOnce_completed _ (.inl rfl) .none 0 0⟩

theorem exec_lrcCheck_completes : ∃ t, exec .lrcCheck s = .next t ∧ s.CompletedAtOnce t :=
  ⟨_, exec_lrcCheck hbusy, s.completedAtOnce_completed _ (.inl rfl) .none 0 0⟩

theorem exec_encodeAsk_completes : ∃ t, exec .encodeAsk s = .next t ∧ s.CompletedAtOnce t := by
  cases h : encAsk s.askVal with
  | ok f =>
    obtain ⟨m, -, hexec⟩ := exec_encodeAsk_of_ok hbusy h
    exact ⟨_, hexec, s.completedAtOnce_completed _ (.inl rfl) .none 0 0⟩
  | error e =>
    exact ⟨_, exec_encodeAsk_of_error hbusy h, s.completedAtOnce_completed _ (.inr rfl) ..⟩

theorem exec_decodeAsk_completes : ∃ t, exec .decodeAsk s = .next t ∧ s.CompletedAtOnce t := by
  cases h : decAsk s.input with
  | ok a =>
    exact ⟨_, exec_decodeAsk_of_ok hbusy h, s.completedAtOnce_completed _ (.inl rfl) .none 0 0⟩
  | error e =>
    exact ⟨_, exec_decodeAsk_of_error hbusy h, s.completedAtOnce_completed _ (.inr rfl) ..⟩

theorem exec_decodeResponse_completes :
    ∃ t, exec .decodeResponse s = .next t ∧ s.CompletedAtOnce t := by
  cases h : decResp s.input with
  | ok v =>
    exact ⟨_, exec_decodeResponse_of_ok hbusy h,
      s.completedAtOnce_completed _ (.inl rfl) .none 0 0⟩
  | error e =>
    exact ⟨_, exec_decodeResponse_of_error hbusy h, s.completedAtOnce_completed _ (.inr rfl) ..⟩

theorem exec_encodeResponse_completes :
    ∃ t, exec .encodeResponse s = .next t ∧ s.CompletedAtOnce t := by
  cases h : encResp s.respReportLen.toNat s.respVal with
  | ok f =>
    obtain ⟨m, -, hexec⟩ := exec_encodeResponse_of_ok hbusy h
    exact ⟨_, hexec, s.completedAtOnce_completed _ (.inl rfl) .none 0 0⟩
  | error e =>
    exact ⟨_, exec_encodeResponse_of_error hbusy h, s.completedAtOnce_completed _ (.inr rfl) ..⟩

end AtOnce

/-- Settles O28: command by command, by what each answers where it succeeds and where it fails. -/
theorem checksumAndCodecCommandsCompleteAtOnce :
    Obligations.ChecksumAndCodecCommandsCompleteAtOnce := by
  intro i s hi hbusy
  simp only [List.mem_cons, List.not_mem_nil, or_false] at hi
  rcases hi with rfl | rfl | rfl | rfl | rfl | rfl
  · exact exec_lrc_completes hbusy
  · exact exec_lrcCheck_completes hbusy
  · exact exec_encodeAsk_completes hbusy
  · exact exec_decodeAsk_completes hbusy
  · exact exec_decodeResponse_completes hbusy
  · exact exec_encodeResponse_completes hbusy

end Sys2Proof.Machine

/-! PROOFS. The statement about reset and launch: the values the registers have after each, and what a reset leaves alone. -/

namespace Sys2Proof.Machine

/-! ### The registers at launch and after a reset -/

theorem ByteReg.unwritten_of_mem {n : Nat} {x : Slot Byte}
    (hx : x ∈ (ByteReg.unwritten n).toList) : x.written = false := by
  rw [ByteReg.unwritten, Vector.toList_replicate] at hx
  rw [List.eq_of_mem_replicate hx]
  rfl

theorem AskBlock.unwritten_of_mem_reset {x : Slot Byte}
    (hx : x ∈ AskBlock.reset.pos.toList ++ AskBlock.reset.currency.toList ++
      AskBlock.reset.priv.toList ++ AskBlock.reset.delay.toList ++ AskBlock.reset.auth.toList) :
    x.written = false := by
  simp only [List.mem_append] at hx
  rcases hx with (((hx | hx) | hx) | hx) | hx <;> exact ByteReg.unwritten_of_mem hx

theorem RespBlock.unwritten_of_mem_reset {x : Slot Byte}
    (hx : x ∈ RespBlock.reset.pos.toList ++ RespBlock.reset.report.toList ++
      RespBlock.reset.currency.toList ++ RespBlock.reset.priv.toList) :
    x.written = false := by
  simp only [List.mem_append] at hx
  rcases hx with ((hx | hx) | hx) | hx <;> exact ByteReg.unwritten_of_mem hx

/-! The bytes software reads from CTRL, STATUS and ERR when their fields are at the reset values. -/

theorem Ctrl.word_reset : Ctrl.word { lenient := false } = 0x00 := by decide

theorem Status.word_reset : Status.reset.word = 0x00 := by decide

theorem Err.word_reset : Err.reset.word = 0x00 := by decide

theorem State.registersReset_launch (p : Params) (q : List Byte) :
    (State.launch p q).RegistersReset where
  cmd := rfl
  ctrl := Ctrl.word_reset
  status := Status.word_reset
  err := Err.word_reset
  errInfo := ⟨rfl, rfl⟩
  lrcValue := rfl
  timeoutArg := rfl
  bufLen := rfl
  buf := fun _ => rfl
  ask := ⟨fun _ => AskBlock.unwritten_of_mem_reset, rfl, rfl, rfl, rfl, rfl⟩
  resp := ⟨fun _ => RespBlock.unwritten_of_mem_reset, rfl, rfl, rfl, rfl⟩
  engine := rfl
  savedTimeout := rfl
  toSaved := rfl
  counts := ⟨rfl, rfl⟩
  flags := ⟨rfl, rfl, rfl⟩
  bytes := ⟨rfl, rfl⟩

/-- What a reset keeps is no register of PEHE: the registers are those of a launch (R230). -/
theorem State.registersReset_hardReset (s : State) : s.hardReset.RegistersReset :=
  { State.registersReset_launch s.params s.rxQ with }

/-! ### What a reset leaves alone -/

/-- The restore reads SAVED_TIMEOUT, so a reset records no fault where one that was saved is written (R43, R230). -/
theorem State.hardReset_faults {s : State} (hs : s.savedOk) : s.hardReset.faults = s.faults := by
  cases hsaved : s.toSaved with
  | true => simp [State.hardReset, hsaved, hs hsaved]
  | false => simp [State.hardReset, hsaved]

theorem State.hardReset_outside (s : State) : s.hardReset.txLog = s.txLog ∧
    s.hardReset.rxQ = s.rxQ ∧ s.hardReset.params = s.params := by
  simp [State.hardReset, State.launch]

/-- Settles O8: a reset is the launch of the state's own parameters and RX_Q, with TX_LOG, FAULTS and the restored timeout put back. -/
theorem resetLeavesTheResetValues : Obligations.ResetLeavesTheResetValues := by
  refine ⟨fun s later h hs => ?_,
    fun p q => ⟨State.registersReset_launch p q, rfl, rfl, rfl, rfl⟩⟩
  have hpop : State.savedOk { s with schedule := later } := hs
  obtain ⟨htx, hrx, hparams⟩ := State.hardReset_outside { s with schedule := later }
  obtain ⟨-, htimeout⟩ := State.hardReset_timeout hpop
  exact ⟨_, step_reset h, State.registersReset_hardReset _, htx, hrx, htimeout,
    State.hardReset_faults hpop, hparams⟩

end Sys2Proof.Machine
